-- ==== Sys2Proof/Word.lean ====
section
/-! DEFINITION. Word.lean: the machine words of the block: one stream byte, one frame offset, one
24-byte frame (00_scope.md R11, R12; 30_encoding.md R80). -/

namespace Sys2Proof

/-- One byte of the stream; bit 7 is its most significant bit (R11). -/
abbrev Byte := BitVec 8

/-- A frame offset, 0 to 23, in order of arrival (R12, R45). No other offset exists. -/
abbrev Offset := Fin 24

/-- A RawFrame: "exactly 24 bytes, fixed layout" (R80), the byte at offset 0 first. -/
abbrev Frame := Vector Byte 24

end Sys2Proof
end

