-- ==== Sys2Proof/Config.lean ====
section
/-! DEFINITION. Config.lean: every parameter of the block under its own name (00_scope.md R8). The one OPEN
parameter, POWER_OOR, has here only the default the spec supplies; the machine takes the predicate
from its build-time strap (`Env.oorStatuses`), so that a claim over all states covers every predicate. -/

namespace Sys2Proof.Config

/-- SYNC_MARKER, recovered from the source's one example frame (R8, R83, decision D2). PRESUMED (log entry 7). -/
def syncMarker : Byte := 0x5A

/-- CHK_FIRST and CHK_LAST, the first and last offsets the checksum sums (R8, R85). -/
def chkFirst : Nat := 2

@[inherit_doc chkFirst]
def chkLast : Nat := 22

/-- CHK_OFF, the offset of the Checksum byte (R8, R80). -/
def chkOff : Offset := 23

/-- CHECKSUM_VARIANT: "PLAIN_SUM as its only value" (R144). The one's-complement variant has no formula in the
spec; having no name here is how the model refuses it (93_implementation_defined.md U6). -/
inductive ChecksumVariant where
  | plainSum
deriving DecidableEq, Repr

@[inherit_doc ChecksumVariant]
def checksumVariant : ChecksumVariant := .plainSum

/-- BIT_A, the UpdateFlags bit "voltage ready" (R8, R84, decision D3). PRESUMED, as BIT_B, BIT_C and BIT_D are (G1; log entry 7). -/
def bitA : Nat := 6

/-- BIT_B, the UpdateFlags bit "current ready" (R8, R84, decision D3). -/
def bitB : Nat := 5

/-- BIT_C, the UpdateFlags bit "power ready" (R8, R84, decision D3). -/
def bitC : Nat := 4

/-- BIT_D, the UpdateFlags bit "pulse-counter overflow event" (R8, R84, decision D3). -/
def bitD : Nat := 7

/-- The default of POWER_OOR the spec supplies for its vectors: (s AND 0xF2) = 0xF2 (R8, R181, G2). PRESUMED (log entry
1), unsafe if a claim rests on it. -/
def powerOorDefault (status : Byte) : Bool := status &&& 0xF2 == 0xF2

/-- The Status values for which the default POWER_OOR holds, as plain data. -/
def oorStatusesDefault : List Byte := ((List.range 256).map (BitVec.ofNat 8)).filter powerOorDefault

/-- FRAC, the fraction bits of every fixed-point quantity (R8, R14, decision D5). -/
def frac : Nat := 16

/-- FRAC as a factor: 2^16, the fixed-point 1.0. -/
def one : Nat := 2 ^ frac

/-- Width of KV and KI, UQ16.16 (R8, R29). -/
@[simp] abbrev kW : Nat := 32

/-- OVF_W, the width of the overflow counter (R8, R30, decision D8). -/
@[simp] abbrev ovfW : Nat := 16

/-- FRAME_CNT_W, the width of the accepted-frame counter (R8, R32, decision D9). -/
@[simp] abbrev frameCntW : Nat := 32

/-- V_W, the width of voltage, UQ40.16 (R8, R177). -/
@[simp] abbrev vW : Nat := 56

/-- I_W, the width of current, UQ40.16 (R8, R179). -/
@[simp] abbrev iW : Nat := 56

/-- P_W, the width of activePower, UQ56.16 (R8, R182). -/
@[simp] abbrev pW : Nat := 72

/-- S_W, the width of apparentPower, UQ80.16 (R8, R184). -/
@[simp] abbrev sW : Nat := 96

/-- PF_W, the width of powerFactor, UQ72.16 (R8, R187). -/
@[simp] abbrev pfW : Nat := 88

/-- CUM_W = OVF_W + 16, the width of cumulativePulses (R8, R190). -/
@[simp] abbrev cumW : Nat := ovfW + 16

/-- The level the model gives the configuration inputs `cfg_kv` and `cfg_ki` at reset: 1.0 in UQ16.16.
DESIGN CHOICE (log entry 6): the inputs belong to the environment (R43 b) and the spec gives them no reset level; it only asks
that they be nonzero at INIT (R243, R244). Unsafe if a claim rests on the number. -/
def cfgAtReset : BitVec kW := 0x00010000

/-- What an address of the frame buffer that nothing has written reads as in the raw store. DESIGN CHOICE (log entry
3): the spec calls it unspecified (R25, R46); the architectural read hides it (`Sync.heldAt`). -/
def unwrittenByte : Byte := 0x00

end Sys2Proof.Config
end

