-- ==== Sys2Proof/Syntax.lean ====
section
/-! DEFINITION. Syntax.lean: the instructions, one constructor per row of spec/opcode_table.json (30_encoding.md R101),
the record DECODE hands to CONVERT, and the reasons the decoder refuses bytes. -/

namespace Sys2Proof

/-- DecodedFields (42_decoder.md R151): the ten components DECODE hands to CONVERT. A measured register that is not
ready in this frame is `none`, "not zero" (R150). -/
structure DecodedFields where
  status : Byte
  vpar : BitVec 24
  vreg : Option (BitVec 24)
  ipar : BitVec 24
  ireg : Option (BitVec 24)
  ppar : BitVec 24
  preg : Option (BitVec 24)
  flags : Byte
  ovf : Bool
  pulse : BitVec 16
deriving DecidableEq, Repr

/-- The rows of the opcode table. The first four are the commands of the port (R86); the next five are the stage
functions, "not commands of their own", each with the operand its rule gives it; the last is the RawFrame, the
pseudo-command FRAME (R80, R100). -/
inductive Instr where
  /-- IDLE (R87, R111): no byte now. -/
  | idle
  /-- RXBYTE b (R88, R112): the next byte of the stream. -/
  | rxbyte (b : Byte)
  /-- FLUSH (R89, R121): teardown of the Byte Source. -/
  | flush
  /-- INIT (R90, R171): its operands are the configuration inputs, not part of the word. -/
  | init
  /-- VALIDATE(f) (R141): "any 24-byte array". -/
  | validate (f : Frame)
  /-- REANCHOR(f) (R118): f the rejected candidate. -/
  | reanchor (f : Frame)
  /-- ACCEPT(f) (R173): f the accepted frame. -/
  | accept (f : Frame)
  /-- DECODE(f) (R152). -/
  | decode (f : Frame)
  /-- CONVERT(d) (R174). -/
  | convert (d : DecodedFields)
  /-- FRAME (R80, R100): the 24 bytes of a RawFrame, presented in order. No 24 bytes are illegal (R96). -/
  | frame (f : Frame)
deriving DecidableEq, Repr

/-- What can stand on the port: the 10 lines of a command word (R86), or the 24 bytes of a RawFrame, which are 24 command words in
order (R80, R100; log entry 11). There is nothing else to present, and the block "never refuses or delays a command" (R73). -/
inductive PortWord where
  | command (w : BitVec 10)
  | frame (f : Frame)
deriving DecidableEq, Repr

/-- Why a byte string stands for no word of the port. Safe: no step meets one, because the port cannot show it. -/
inductive DecodeError where
  /-- Neither a two-byte command word nor a 24-byte RawFrame (R86, R98). -/
  | badLength (n : Nat)
  /-- A two-byte string with a bit above bit 9: the command word has 10 bits (R86). -/
  | beyondCommandWord
deriving DecidableEq, Repr

end Sys2Proof
end

