-- ==== Sys2Proof/Machine/Operands.lean ====
section
/-! DEFINITION. Machine/Operands.lean: how a frame is read: one byte by offset, big-endian fields (MemRead of 00_scope.md
R13; BE24 and BE16 of 30_encoding.md R91, R92), the checksum sum (R85), and the command word's bits (R86). -/

namespace Sys2Proof.Machine

/-- MemRead(off, 1) = f[off] (R13). -/
def byteAt (f : Frame) (o : Offset) : Byte := f.get o

/-- The bytes of f at offsets `first` to `last`, both included (R12). -/
def bytesOf (f : Frame) (first last : Nat) : List Byte := (f.toList.drop first).take (last + 1 - first)

/-- BE24(f, o) = MemRead(o, 3), the byte at the lowest offset most significant (R61, R91). -/
def be24 (f : Frame) (o : Nat) (h : o + 2 < 24 := by decide) : BitVec 24 :=
  byteAt f ⟨o, by omega⟩ ++ byteAt f ⟨o + 1, by omega⟩ ++ byteAt f ⟨o + 2, h⟩

/-- BE16(f, o) = MemRead(o, 2) (R61, R92). -/
def be16 (f : Frame) (o : Nat) (h : o + 1 < 24 := by decide) : BitVec 16 :=
  byteAt f ⟨o, by omega⟩ ++ byteAt f ⟨o + 1, h⟩

/-- The natural-number sum of the bytes at offsets 2 to 22 (R85, R141). -/
def payloadSum (f : Frame) : Nat :=
  ((bytesOf f Config.chkFirst Config.chkLast).map BitVec.toNat).sum

/-- The Checksum byte the payload calls for under CHECKSUM_VARIANT (R85, R144). -/
def checksumOf (f : Frame) : Byte :=
  match Config.checksumVariant with
  | .plainSum => BitVec.ofNat 8 (payloadSum f)

/-- The Sync byte, offset 1 (R83). -/
def syncOf (f : Frame) : Byte := byteAt f 1

/-- op[1:0] of a command word (R86). -/
def opOf (w : BitVec 10) : BitVec 2 := w.extractLsb' 8 2

/-- data[7:0] of a command word (R86). -/
def dataOf (w : BitVec 10) : Byte := w.extractLsb' 0 8

end Sys2Proof.Machine
end

