-- ==== Sys2Proof/Machine/Flags.lean ====
section
/-! DEFINITION. Machine/Flags.lean: every flag the block computes: VALIDATE's verdict (41_validator.md R141), the ready bits
and the overflow bit of UpdateFlags (42_decoder.md R152, R153), the POWER_OOR test (43_converter.md R181). -/

namespace Sys2Proof.Machine

/-- VALIDATE(f) (R141): the sum of offsets 2 to 22 modulo 256 equals offset 23. Total and pure (R142). -/
def validateFrame (f : Frame) : Bool := checksumOf f == byteAt f Config.chkOff

/-- Offset 1 is SYNC_MARKER (R83). -/
def syncMatches (f : Frame) : Bool := syncOf f == Config.syncMarker

/-- UpdateFlags bit A: voltage ready in this frame (R84, R153). -/
def voltageReady (flags : Byte) : Bool := flags.getLsbD Config.bitA

/-- UpdateFlags bit B: current ready in this frame (R84, R153). -/
def currentReady (flags : Byte) : Bool := flags.getLsbD Config.bitB

/-- UpdateFlags bit C: power ready in this frame (R84, R153). -/
def powerReady (flags : Byte) : Bool := flags.getLsbD Config.bitC

/-- UpdateFlags bit D: a pulse-counter overflow event in this frame (R84, R152). -/
def overflowEvent (flags : Byte) : Bool := flags.getLsbD Config.bitD

/-- The ready rule (R153): `some` of the raw value if and only if the register's bit is 1 in this frame. -/
def whenReady (ready : Bool) (raw : BitVec 24) : Option (BitVec 24) := if ready then some raw else none

/-- POWER_OOR (R8, R181), the OPEN predicate on Status, given as the list of the Status values it holds for. -/
def powerOor (oorStatuses : List Byte) (status : Byte) : Bool := oorStatuses.contains status

end Sys2Proof.Machine
end

