-- ==== Sys2Proof/WellFormed.lean ====
section
/-! DEFINITION. WellFormed.lean: what the spec asks of an instruction's operands. The meanings are total on every term;
these checks are the premises under which the block itself runs a stage function, and the form of a FRAME. -/

namespace Sys2Proof

open Sys2Proof.Machine

/-- The ready registers and the overflow bit of d are those its UpdateFlags byte names (R151, R153). -/
def DecodedFields.consistent (d : DecodedFields) : Bool :=
  d.vreg.isSome == voltageReady d.flags && d.ireg.isSome == currentReady d.flags &&
    d.preg.isSome == powerReady d.flags && d.ovf == overflowEvent d.flags

/-- Well-formed instructions. A command always is (R95); VALIDATE and DECODE take "any 24-byte array" (R142, R155);
REANCHOR takes a rejected candidate and ACCEPT an accepted one (R118, R173), both with SYNC_MARKER at offset 1 (R83);
CONVERT takes fields that DECODE can give; FRAME takes any 24 bytes, for no 24-byte string is illegal (R96). -/
def Instr.wf : Instr → Bool
  | .idle => true
  | .rxbyte _ => true
  | .flush => true
  | .init => true
  | .validate _ => true
  | .reanchor f => syncMatches f && !validateFrame f
  | .accept f => syncMatches f && validateFrame f
  | .decode _ => true
  | .convert d => d.consistent
  | .frame _ => true

end Sys2Proof
end

