-- ==== Sys2Proof/Decode.lean ====
section
/-! DEFINITION. Decode.lean: from bytes to an instruction, total, rejecting by name; then the encoder, from the same tables
(30_encoding.md R86 to R90, R80, R96); then the host's numbered table words.

A 10-bit command word is laid out in two bytes, bits 7:0 first, then bits 9:8 in the low end of the second
byte. DESIGN CHOICE (log entry 5): the port has 10 lines and no byte layout. A RawFrame is its 24 bytes, offset 0 first. -/

namespace Sys2Proof

open Sys2Proof.Machine

/-- "A decoder of the command port is: look at cmd[9:8]" (R101). No command word is illegal, and the data bits of
IDLE, FLUSH and INIT are ignored (R95). -/
def decodeCommand (w : BitVec 10) : Instr :=
  match (opOf w).toNat with
  | 0 => .idle
  | 1 => .rxbyte (dataOf w)
  | 2 => .flush
  | _ => .init

/-- The 24 bytes of a string of that length, offset 0 first (R12). -/
def frameOfList (bytes : List Byte) (h : bytes.length = 24) : Frame := ⟨bytes.toArray, by simpa using h⟩

/-- The instruction a word of the port stands for: total, since no command word and no 24 bytes are illegal (R95, R96). A stage function
has no word of its own: it "carries RXBYTE's encoding" (R101), so the decoder never answers one. -/
def decodeWord : PortWord → Instr
  | .command w => decodeCommand w
  | .frame f => .frame f

/-- The word of the port a byte string stands for: two bytes a command word, 24 bytes a RawFrame, and nothing else (R86, R98). -/
def portWord (bytes : List Byte) : Except DecodeError PortWord :=
  match bytes with
  | [lo, hi] =>
    if hi.toNat < 4 then .ok (.command (hi.extractLsb' 0 2 ++ lo)) else .error .beyondCommandWord
  | _ =>
    if h : bytes.length = 24 then .ok (.frame (frameOfList bytes h)) else .error (.badLength bytes.length)

/-- The instruction a byte string stands for. -/
def decode (bytes : List Byte) : Except DecodeError Instr := (portWord bytes).map decodeWord

/-- The two bytes of a command word. -/
def commandBytes (op : BitVec 2) (data : Byte) : List Byte := [data, op.setWidth 8]

/-- The encoding of an instruction. Ignored data bits are written 0 (R99). A stage function has the word of the RXBYTE that
completed its frame, whose byte is offset 23 (R118, R141, R152, R173). CONVERT's operand does not hold that byte, so no word is
determined by it (R151, R156). -/
def encode : Instr → Option (List Byte)
  | .idle => some (commandBytes 0 0)
  | .rxbyte b => some (commandBytes 1 b)
  | .flush => some (commandBytes 2 0)
  | .init => some (commandBytes 3 0)
  | .validate f => some (commandBytes 1 (byteAt f Config.chkOff))
  | .reanchor f => some (commandBytes 1 (byteAt f Config.chkOff))
  | .accept f => some (commandBytes 1 (byteAt f Config.chkOff))
  | .decode f => some (commandBytes 1 (byteAt f Config.chkOff))
  | .convert _ => none
  | .frame f => some f.toList

/-- The bytes of a table word. A command word is bits 9:0 (R86). A FRAME word is numbered as R80 and the table number it: bit
191 is bit 7 of offset 0. -/
def tableBytes (nbits w : Nat) : List Byte :=
  if nbits = 192 then (List.range 24).map fun o => BitVec.ofNat 8 (w / 2 ^ (8 * (23 - o)))
  else if nbits ≤ 16 then [BitVec.ofNat 8 w, BitVec.ofNat 8 (w / 256)]
  else (List.range (nbits / 8)).map fun k => BitVec.ofNat 8 (w / 2 ^ (8 * k))

/-- The instruction the decoder reads from a table word of `nbits` bits. -/
def decodeTableWord (nbits w : Nat) : Option Instr := (decode (tableBytes nbits w)).toOption

end Sys2Proof
end

