-- ==== Sys2Proof/Machine/State.lean ====
section
/-! DEFINITION. Machine/State.lean: the state of one instance of the block (10_state.md R20): group S, group M, and the
model's own fields (the outputs of the last step, the value a stage function returned, the environment's side of
the port). Plain data throughout. -/

namespace Sys2Proof.Machine

/-- MODE (R21): HUNT = 0, COLLECT = 1. -/
inductive Mode where
  | hunt
  | collect
deriving DecidableEq, Repr

/-- A byte store in canonical form: addresses strictly rising, no entry equal to what an unlisted address reads as
(`Memory.wf`). The block has one, the frame buffer FB (R60). -/
abbrev Memory := List Host.Cell

/-- Group S, the in-flight state of frame detection (R20). -/
structure Sync where
  /-- MODE (R21). -/
  mode : Mode
  /-- CNT (R22), 5 bits: bytes of the current candidate held in FB, and the offset of the next one. -/
  cnt : BitVec 5
  /-- WIN_VALID (R23): `winPrev` holds a stream byte. -/
  winValid : Bool
  /-- WIN_PREV (R24): the byte before the one now arriving. -/
  winPrev : Byte
  /-- FB[0..23] (R25), the frame buffer. -/
  fb : Memory
deriving DecidableEq, Repr

/-- Group M, MeterState and configuration (R20). -/
structure Meter where
  /-- INITED (R28). -/
  inited : Bool
  /-- KV (R29), UQ16.16. -/
  kv : BitVec Config.kW
  /-- KI (R29), UQ16.16. -/
  ki : BitVec Config.kW
  /-- OVF_CNT (R30). -/
  ovfCnt : BitVec Config.ovfW
  /-- OVF_SAT (R31), sticky. -/
  ovfSat : Bool
  /-- FRAME_CNT (R32). -/
  frameCnt : BitVec Config.frameCntW
  /-- LAST_FRAME[0..23] (R33). -/
  lastFrame : Frame
  /-- LAST_FRAME_VALID (R33). -/
  lastFrameValid : Bool
  /-- LAST_V (R34), UQ40.16 volts. -/
  lastV : BitVec Config.vW
  /-- LAST_V_VALID (R34). -/
  lastVValid : Bool
  /-- LAST_I (R35), UQ40.16 amperes. -/
  lastI : BitVec Config.iW
  /-- LAST_I_VALID (R35). -/
  lastIValid : Bool
  /-- LAST_P (R36), UQ56.16 watts. -/
  lastP : BitVec Config.pW
  /-- LAST_P_VALID (R36). -/
  lastPValid : Bool
  /-- LAST_S (R37), UQ80.16 volt-amperes. -/
  lastS : BitVec Config.sW
  /-- LAST_S_VALID (R37). -/
  lastSValid : Bool
  /-- LAST_PF (R38), UQ72.16. -/
  lastPf : BitVec Config.pfW
  /-- LAST_PF_VALID (R38). -/
  lastPfValid : Bool
  /-- LAST_CUM (R39). -/
  lastCum : BitVec Config.cumW
deriving DecidableEq, Repr

/-- The four outcome kinds (60_exceptions.md R211). -/
inductive OutcomeCode where
  | none
  | reading
  | incomplete
  | checksumInvalid
deriving DecidableEq, Repr

/-- A Reading (43_converter.md R172); `none` in a component is RegisterUnready, "surfaced distinctly from zero". -/
structure Reading where
  voltage : Option (BitVec Config.vW)
  current : Option (BitVec Config.iW)
  activePower : Option (BitVec Config.pW)
  apparentPower : Option (BitVec Config.sW)
  powerFactor : Option (BitVec Config.pfW)
  cumulativePulses : BitVec Config.cumW
deriving DecidableEq, Repr

/-- What the block drives at the end of one command (R93): the outcome and, for READING and INCOMPLETE, the Reading. -/
structure Output where
  code : OutcomeCode
  reading : Option Reading
deriving DecidableEq, Repr

/-- The value a stage function returns to its caller. It is not state of the block (R43 d); a stage function run on its own leaves
it here, and a command leaves `empty` (log entry 10). -/
inductive StageResult where
  | empty
  /-- VALIDATE's boolean (R141). -/
  | verdict (valid : Bool)
  /-- DECODE's record (R152). -/
  | fields (d : DecodedFields)
  /-- CONVERT's Reading (R174). -/
  | reading (r : Reading)
deriving DecidableEq, Repr

/-- One step of the environment on the port (log entries 12, 13): the reset line (R240), the word presented (R86), and the levels of the configuration
inputs while it is presented (R90). -/
structure PortItem where
  rst : Bool
  word : PortWord
  cfgKv : BitVec Config.kW
  cfgKi : BitVec Config.kW
deriving DecidableEq, Repr

/-- The environment's side (R43 b, c; R257): what the Byte Source will still present, the levels of the configuration inputs, and
the build-time strap that gives the OPEN predicate POWER_OOR. No command changes the strap (R43 c; log entries 1,
6, 12). -/
structure Env where
  input : List PortItem
  cfgKv : BitVec Config.kW
  cfgKi : BitVec Config.kW
  oorStatuses : List Byte
deriving DecidableEq, Repr

/-- The whole state. `sync` and `meter` are the block's registers, exactly those of R20; `outs`, `stage` and `env` are the
model's own. -/
structure State where
  sync : Sync
  meter : Meter
  /-- The outputs driven at the end of each command of the last step, oldest first: one for a command, 24 for FRAME.Log entry 15. -/
  outs : List Output
  stage : StageResult
  env : Env
deriving DecidableEq, Repr

/-- The faults. The block itself has none (R221): the one below stands where the spec defines no behaviour at all. -/
inductive Fault where
  /-- RXBYTE in COLLECT with CNT at 24 or more: the byte would go to an offset that does not exist (R22, R45). No reachable state has
  it (R26). Safe: the model stops. -/
  | noSuchOffset (off : Nat)
deriving DecidableEq, Repr

/-- The refusals. -/
inductive Refusal where
  /-- An instruction that has no meaning in the model. Raised by no arm of exec. Safe. -/
  | notModelled (mnemonic : String)
  /-- INIT with cfg_kv = 0 or cfg_ki = 0: a model shall "refuse to give INIT a meaning otherwise" (R244, R221, U8). Safe. -/
  | zeroCalibration
deriving DecidableEq, Repr

/-- Group S after hardware reset (R46, R240); WIN_PREV and FB are unspecified there (log entries 2, 3). -/
def Sync.reset : Sync where
  mode := .hunt
  cnt := 0
  winValid := false
  winPrev := 0
  fb := []

/-- Group M after hardware reset (R46, R240); KV, KI, LAST_FRAME and the held readings are unspecified there (log entry 2). -/
def Meter.reset : Meter where
  inited := false
  kv := 0
  ki := 0
  ovfCnt := 0
  ovfSat := false
  frameCnt := 0
  lastFrame := Vector.replicate 24 0
  lastFrameValid := false
  lastV := 0
  lastVValid := false
  lastI := 0
  lastIValid := false
  lastP := 0
  lastPValid := false
  lastS := 0
  lastSValid := false
  lastPf := 0
  lastPfValid := false
  lastCum := 0

/-- The machine right after hardware reset: it "waits for commands" (R240), so nothing is presented yet. -/
def State.reset : State where
  sync := Sync.reset
  meter := Meter.reset
  outs := []
  stage := .empty
  env := { input := [], cfgKv := Config.cfgAtReset, cfgKi := Config.cfgAtReset, oorStatuses := Config.oorStatusesDefault }

end Sys2Proof.Machine
end

