-- ==== Sys2Proof/Machine/Ops.lean ====
section
/-! DEFINITION. Machine/Ops.lean: the named operations: the frame buffer's store (20_memory.md R60), ending a command with its
outcome (the block's one form of `raise`, 00_scope.md R13), the operations on group S and group M that several rules share,
hardware reset, and the port's fetch. Nothing is saved and nothing returns from a condition (60_exceptions.md R219, R220). -/

namespace Sys2Proof.Machine

/-- The byte at address `a`; an unlisted address reads `Config.unwrittenByte`. -/
def Memory.read : Memory → Nat → Byte
  | [], _ => Config.unwrittenByte
  | (k, v) :: m, a => if k = a then v else Memory.read m a

/-- The store without any entry at address `a`. -/
def Memory.erase : Memory → Nat → Memory
  | [], _ => []
  | (k, v) :: m, a => if k = a then Memory.erase m a else (k, v) :: Memory.erase m a

/-- Put an entry before the first one at a higher address. -/
def Memory.insert : Memory → Nat → Byte → Memory
  | [], a, b => [(a, b)]
  | (k, v) :: m, a, b => if a < k then (a, b) :: (k, v) :: m else (k, v) :: Memory.insert m a b

/-- Write one byte, keeping the canonical form: the value an unlisted address reads as is not listed. -/
def Memory.write (m : Memory) (a : Nat) (b : Byte) : Memory :=
  if b = Config.unwrittenByte then Memory.erase m a else Memory.insert (Memory.erase m a) a b

/-- Write the bytes of a list at rising addresses from `a` on. -/
def Memory.writeBlock : Memory → Nat → List Byte → Memory
  | m, _, [] => m
  | m, a, b :: bs => Memory.writeBlock (m.write a b) (a + 1) bs

/-- The canonical form: addresses strictly rising, all below 24 (R45), no entry equal to what an unlisted address reads as. -/
def Memory.wf (m : Memory) : Bool :=
  decide ((m.map Prod.fst).Pairwise (· < ·)) && m.all fun c => decide (c.1 < 24) && c.2 != Config.unwrittenByte

/-- MemWrite(off, 1, v): FB[off] <- v, "no other width is ever written" (R13, R66). An offset is below 24 by its type. -/
def Sync.memWrite (g : Sync) (off : Offset) (v : Byte) : Sync := { g with fb := g.fb.write off.val v }

/-- The 24 bytes of FB as one frame, `f <- [FB[0], ..., FB[23]]` (R117). -/
def Sync.frame (g : Sync) : Frame := Vector.ofFn fun i => g.fb.read i.val

/-- FB[off] where it is meaningful, that is for off < CNT (R25); elsewhere there is no value (U1). -/
def Sync.heldAt (g : Sync) (off : Nat) : Option Byte := if off < g.cnt.toNat then some (g.fb.read off) else none

/-- WIN_PREV where it is meaningful, that is while WIN_VALID = 1 (R24, U1). -/
def Sync.window (g : Sync) : Option Byte := if g.winValid then some g.winPrev else none

/-- MODE <- HUNT; CNT <- 0; WIN_VALID <- 0 (R117, R120, R121, R171, R240). -/
def Sync.toHunt (g : Sync) : Sync := { g with mode := .hunt, cnt := 0, winValid := false }

/-- KV where it is meaningful, that is once INITED = 1 (R29): else "no value and not a zero" (R221, U2). -/
def Meter.kvValue (m : Meter) : Option (BitVec Config.kW) := if m.inited then some m.kv else none

/-- KI where it is meaningful (R29, R221, U2). -/
def Meter.kiValue (m : Meter) : Option (BitVec Config.kW) := if m.inited then some m.ki else none

/-- Counters to 0 and the six valid bits to 0, what INIT and hardware reset have in common (R46, R171, R240). -/
def Meter.clear (m : Meter) : Meter :=
  { m with
    ovfCnt := 0, ovfSat := false, frameCnt := 0, lastCum := 0
    lastFrameValid := false, lastVValid := false, lastIValid := false
    lastPValid := false, lastSValid := false, lastPfValid := false }

/-- `outcome <- X` and driving the outputs at the end of a command (R13, R93, R211). It "never stops the block". -/
def State.endCommand (s : State) (code : OutcomeCode) (reading : Option Reading := none) : State :=
  { s with outs := [{ code, reading }], stage := .empty }

/-- A stage function run on its own leaves the value it returns. -/
def State.returning (s : State) (r : StageResult) : State := { s with stage := r }

/-- Hardware reset (R240): the registers R240 names take its values, the unspecified ones are left alone (log entry 2), and no
command has ended yet, so nothing is driven. -/
def State.hardwareReset (s : State) : State :=
  { s with
    sync := s.sync.toHunt
    meter := { s.meter.clear with inited := false }
    outs := []
    stage := .empty }

/-- What the port presents next. With nothing left to present it shows "no byte now", the IDLE command (R86, R226; log entry 4). -/
def State.fetch (s : State) : PortItem :=
  match s.env.input with
  | [] => { rst := false, word := .command 0x000, cfgKv := s.env.cfgKv, cfgKi := s.env.cfgKi }
  | x :: _ => x

/-- The state in which the presented command executes: the item is consumed and the configuration inputs stand at its levels. -/
def State.presented (s : State) : State :=
  { s with env := { s.env with input := s.env.input.tail, cfgKv := s.fetch.cfgKv, cfgKi := s.fetch.cfgKi } }

/-- Present a word before everything the environment still has to present. -/
def State.present (s : State) (word : PortWord) : State :=
  { s with env := { s.env with
      input := { rst := false, word, cfgKv := s.env.cfgKv, cfgKi := s.env.cfgKi } :: s.env.input } }

/-- Present the word a byte string stands for; bytes that are no word of the port cannot be presented (log entry 14). -/
def State.presentBytes (s : State) (bytes : List Byte) : State :=
  match portWord bytes with
  | .ok word => s.present word
  | .error _ => s

end Sys2Proof.Machine
end

