-- ==== Sys2Proof/Machine/RegisterDecoder.lean ====
section
/-! DEFINITION. Machine/RegisterDecoder.lean: DECODE, the unpacking of an accepted frame (42_decoder.md). -/

namespace Sys2Proof.Machine

/-- DECODE(f) (R152), total and pure (R155): big-endian fields, the whole Status and UpdateFlags bytes passed through
(R154), a measured register present if and only if its ready bit is 1 (R153). -/
def decodeFields (f : Frame) : DecodedFields :=
  let flags := byteAt f 20
  { status := byteAt f 0
    vpar := be24 f 2
    vreg := whenReady (voltageReady flags) (be24 f 5)
    ipar := be24 f 8
    ireg := whenReady (currentReady flags) (be24 f 11)
    ppar := be24 f 14
    preg := whenReady (powerReady flags) (be24 f 17)
    flags := flags
    ovf := overflowEvent flags
    pulse := be16 f 21 }

/-- DECODE(f) (R152): "no register is read or written"; its record goes back to the caller. -/
def execDecode (f : Frame) (s : State) : Host.Outcome State Fault Refusal :=
  .next (s.returning (.fields (decodeFields f)))

end Sys2Proof.Machine
end

