-- ==== Sys2Proof/Machine/Converter.lean ====
section
/-! DEFINITION. Machine/Converter.lean: CONVERT, ACCEPT and INIT (43_converter.md). All arithmetic is on naturals and exact but for
one floor division at the end, its divisor nonzero by the guard before it (R175). -/

namespace Sys2Proof.Machine

/-- The guarded ratio of R176 and R178: floor(r * k / par), `none` when the register is unready, the parameter is zero, or
the constant has no value (R221). -/
def scaled (w : Nat) (reg : Option (BitVec 24)) (par : BitVec 24) (k : Option (BitVec Config.kW)) : Option (BitVec w) :=
  match reg, k with
  | some r, some k => if par = 0 then none else some (BitVec.ofNat w (r.toNat * k.toNat / par.toNat))
  | _, _ => none

/-- voltage (R176), UQ40.16. -/
def voltageOf (d : DecodedFields) (kv : Option (BitVec Config.kW)) : Option (BitVec Config.vW) :=
  scaled Config.vW d.vreg d.vpar kv

/-- current (R178), UQ40.16. -/
def currentOf (d : DecodedFields) (ki : Option (BitVec Config.kW)) : Option (BitVec Config.iW) :=
  scaled Config.iW d.ireg d.ipar ki

/-- activePower (R180, R181), UQ56.16: POWER_OOR is tested first and forces a valid 0; then the ready bit and the zero
parameter; then floor(r * KV * KI / (ppar * 65536)), rounded once. -/
def activePowerOf (oor : List Byte) (d : DecodedFields) (kv ki : Option (BitVec Config.kW)) : Option (BitVec Config.pW) :=
  if powerOor oor d.status then some 0
  else
    match d.preg, kv, ki with
    | some r, some kv, some ki =>
      if d.ppar = 0 then none
      else some (BitVec.ofNat Config.pW (r.toNat * kv.toNat * ki.toNat / (d.ppar.toNat * Config.one)))
    | _, _, _ => none

/-- apparentPower (R183), UQ80.16, from the rounded voltage and current of this same frame. -/
def apparentPowerOf (v : Option (BitVec Config.vW)) (i : Option (BitVec Config.iW)) : Option (BitVec Config.sW) :=
  match v, i with
  | some a, some c => some (BitVec.ofNat Config.sW (a.toNat * c.toNat / Config.one))
  | _, _ => none

/-- powerFactor (R185), UQ72.16; "defined as 0 (not an error)" when apparentPower is 0 (R186); not clamped (R187). -/
def powerFactorOf (p : Option (BitVec Config.pW)) (s : Option (BitVec Config.sW)) : Option (BitVec Config.pfW) :=
  match p, s with
  | some p, some s => if s = 0 then some 0 else some (BitVec.ofNat Config.pfW (p.toNat * Config.one / s.toNat))
  | _, _ => none

/-- The overflow counter (R188), saturating at its largest value with the sticky OVF_SAT set when an increment is lost
(R189). -/
def Meter.countOverflow (m : Meter) (ovf : Bool) : Meter :=
  if ovf then
    if m.ovfCnt = BitVec.allOnes Config.ovfW then { m with ovfSat := true } else { m with ovfCnt := m.ovfCnt + 1 }
  else m

/-- The Reading CONVERT returns (R174), with OVF_CNT read after its update: cumulativePulses = (OVF_CNT, pulse) concatenated (R190). -/
def readingOf (oor : List Byte) (d : DecodedFields) (m : Meter) : Reading :=
  let voltage := voltageOf d m.kvValue
  let current := currentOf d m.kiValue
  let activePower := activePowerOf oor d m.kvValue m.kiValue
  let apparentPower := apparentPowerOf voltage current
  { voltage
    current
    activePower
    apparentPower
    powerFactor := powerFactorOf activePower apparentPower
    cumulativePulses := (m.countOverflow d.ovf).ovfCnt ++ d.pulse }

/-- CONVERT(d) (R174) in a state: it writes OVF_CNT and OVF_SAT only. -/
def State.convert (s : State) (d : DecodedFields) : State := { s with meter := s.meter.countOverflow d.ovf }

/-- All five optional components are `some` (R191). -/
def Reading.complete (r : Reading) : Bool :=
  r.voltage.isSome && r.current.isSome && r.activePower.isSome && r.apparentPower.isSome && r.powerFactor.isSome

/-- READING or INCOMPLETE (R191, R218). -/
def Reading.code (r : Reading) : OutcomeCode := if r.complete then .reading else .incomplete

/-- Held readings (R40, R193): a component that is `some v` is written and marked valid, one that is `none` leaves both
as they were. -/
def Meter.hold (m : Meter) (r : Reading) : Meter :=
  { m with
    lastV := r.voltage.getD m.lastV, lastVValid := m.lastVValid || r.voltage.isSome
    lastI := r.current.getD m.lastI, lastIValid := m.lastIValid || r.current.isSome
    lastP := r.activePower.getD m.lastP, lastPValid := m.lastPValid || r.activePower.isSome
    lastS := r.apparentPower.getD m.lastS, lastSValid := m.lastSValid || r.apparentPower.isSome
    lastPf := r.powerFactor.getD m.lastPf, lastPfValid := m.lastPfValid || r.powerFactor.isSome }

/-- LAST_FRAME, LAST_FRAME_VALID, FRAME_CNT (saturating) and LAST_CUM, written by every accepted frame (R194). -/
def Meter.record (m : Meter) (f : Frame) (r : Reading) : Meter :=
  { m with
    lastFrame := f
    lastFrameValid := true
    frameCnt := if m.frameCnt = BitVec.allOnes Config.frameCntW then m.frameCnt else m.frameCnt + 1
    lastCum := r.cumulativePulses }

/-- The Reading of a frame in a state: CONVERT of its DECODE (R173). -/
def State.readingOfFrame (s : State) (f : Frame) : Reading :=
  readingOf s.env.oorStatuses (decodeFields f) s.meter

/-- ACCEPT(f) (R173): DECODE, CONVERT, the updates of group M, and the outcome with the Reading on the outputs. -/
def State.acceptFrame (s : State) (f : Frame) : State :=
  let d := decodeFields f
  let r := s.readingOfFrame f
  let s' := s.convert d
  { s' with
    meter := (s'.meter.record f r).hold r
    outs := [{ code := r.code, reading := some r }] }

/-- CONVERT(d) (R174): updates OVF_CNT and OVF_SAT, and returns the Reading to the caller. -/
def execConvert (d : DecodedFields) (s : State) : Host.Outcome State Fault Refusal :=
  .next ((s.convert d).returning (.reading (readingOf s.env.oorStatuses d s.meter)))

/-- ACCEPT(f) (R173). -/
def execAccept (f : Frame) (s : State) : Host.Outcome State Fault Refusal :=
  .next (s.acceptFrame f)

/-- The registers INIT writes (R171): the calibration constants sampled from the inputs, INITED, and what `clear` clears. -/
def Meter.initialise (m : Meter) (kv ki : BitVec Config.kW) : Meter :=
  { m.clear with kv := kv, ki := ki, inited := true }

/-- INIT (R171). With a zero constant on either input a model shall "refuse to give INIT a meaning" (R244). -/
def execInit (s : State) : Host.Outcome State Fault Refusal :=
  if s.env.cfgKv = 0 ∨ s.env.cfgKi = 0 then .refused .zeroCalibration
  else
    .next ({ s with
      sync := s.sync.toHunt
      meter := s.meter.initialise s.env.cfgKv s.env.cfgKi }.endCommand .none)

end Sys2Proof.Machine
end

