-- ==== Sys2Proof/Machine/Synchronizer.lean ====
section
/-! DEFINITION. Machine/Synchronizer.lean: IDLE, RXBYTE, REANCHOR and FLUSH (40_synchronizer.md). -/

namespace Sys2Proof.Machine

/-- R113, HUNT with no anchor: the byte becomes the window. -/
def Sync.slide (g : Sync) (b : Byte) : Sync := { g with winPrev := b, winValid := true }

/-- R114, HUNT with an anchor: WIN_PREV is the Status byte "whatever it is". WIN_PREV and FB from offset 2 on are unspecified after it
(R24, R25); that they keep their raw bytes is a DESIGN CHOICE (log entry 2). -/
def Sync.anchor (g : Sync) (b : Byte) : Sync :=
  { (g.memWrite 0 g.winPrev).memWrite 1 b with cnt := 2, mode := .collect, winValid := false }

/-- The condition of R114: WIN_VALID = 1 and b = SYNC_MARKER. -/
def Sync.anchors (g : Sync) (b : Byte) : Bool := g.winValid && b == Config.syncMarker

/-- R116, COLLECT with CNT < 23: MemWrite(CNT, 1, b); CNT <- CNT + 1. FB above the new byte is unspecified (R25) and keeps its raw
bytes (DESIGN CHOICE, log entry 2). -/
def Sync.collect (g : Sync) (b : Byte) (h : g.cnt.toNat < 23) : Sync :=
  { g.memWrite ⟨g.cnt.toNat, by omega⟩ b with cnt := g.cnt + 1 }

/-- The least index j with 2 <= j <= 23 and f[j] = SYNC_MARKER (R118). -/
def firstMarker (f : Frame) : Option Nat :=
  ((f.toList.drop 2).findIdx? fun b => b == Config.syncMarker).map (· + 2)

/-- REANCHOR(f) on group S (R118). FB from the new CNT on, and WIN_PREV with a marker found, are unspecified after it (R24, R25);
that they keep their raw bytes is a DESIGN CHOICE (log entry 2). -/
def Sync.reanchor (g : Sync) (f : Frame) : Sync :=
  match firstMarker f with
  | some j =>
    { g with
      fb := g.fb.writeBlock 0 (f.toList.drop (j - 1))
      cnt := BitVec.ofNat 5 (25 - j)
      mode := .collect
      winValid := false }
  | none => { g with mode := .hunt, cnt := 0, winPrev := byteAt f 23, winValid := true }

/-- R117, COLLECT with CNT = 23: the candidate completes, is judged, and is accepted (R173, R120) or rejected (R214, R118).
All of FB is unspecified after an accepted frame (R25: CNT is 0); that it keeps its raw bytes is a DESIGN CHOICE (log entry 2). -/
def State.complete (s : State) (b : Byte) : State :=
  let s₁ := { s with sync := s.sync.memWrite 23 b }
  let f := s₁.sync.frame
  if validateFrame f then
    let s₂ := s₁.acceptFrame f
    { s₂ with sync := s₂.sync.toHunt, stage := .empty }
  else
    { s₁ with sync := s₁.sync.reanchor f }.endCommand .checksumInvalid

/-- RXBYTE b, the dispatch of R112. Its last arm stands under CNT = 23; above that there is no offset to store at and the spec
gives no behaviour (log entry 9). -/
def State.receive (s : State) (b : Byte) : Host.Outcome State Fault Refusal :=
  if !s.meter.inited then .next (s.endCommand .none)
  else
    match s.sync.mode with
    | .hunt =>
      if s.sync.anchors b then .next ({ s with sync := s.sync.anchor b }.endCommand .none)
      else .next ({ s with sync := s.sync.slide b }.endCommand .none)
    | .collect =>
      if h : s.sync.cnt.toNat < 23 then .next ({ s with sync := s.sync.collect b h }.endCommand .none)
      else if s.sync.cnt = 23 then .next (s.complete b)
      else .fault (.noSuchOffset s.sync.cnt.toNat)

/-- IDLE (R111): "no register is written"; outcome NONE. -/
def execIdle (s : State) : Host.Outcome State Fault Refusal := .next (s.endCommand .none)

/-- RXBYTE b (R112). -/
def execRxbyte (b : Byte) (s : State) : Host.Outcome State Fault Refusal := s.receive b

/-- REANCHOR(f) (R118): group S only; "none of its own" as outcome. -/
def execReanchor (f : Frame) (s : State) : Host.Outcome State Fault Refusal :=
  .next { s with sync := s.sync.reanchor f }

/-- FLUSH (R121): group S back to hunting when INITED = 1; group M untouched; outcome NONE. -/
def execFlush (s : State) : Host.Outcome State Fault Refusal :=
  .next ({ s with sync := if s.meter.inited then s.sync.toHunt else s.sync }.endCommand .none)

end Sys2Proof.Machine
end

