-- ==== Sys2Proof/Machine/Stream.lean ====
section
/-! DEFINITION. Machine/Stream.lean: the pseudo-command FRAME, 24 RXBYTE commands in order (30_encoding.md R100). -/

namespace Sys2Proof.Machine

/-- STREAM b0 b1 ... bn: one RXBYTE per byte, in order (R100), with the outputs of every one of them. -/
def State.stream (s : State) : List Byte → Host.Outcome State Fault Refusal
  | [] => .next { s with outs := [], stage := .empty }
  | b :: bs =>
    match s.receive b with
    | .next s₁ =>
      match s₁.stream bs with
      | .next t => .next { t with outs := s₁.outs ++ t.outs }
      | .fault r => .fault r
      | .refused r => .refused r
    | .fault r => .fault r
    | .refused r => .refused r

/-- FRAME (R80, R100): the 24 bytes of the frame, offset 0 first, in one step (log entry 11). -/
def execFrame (f : Frame) (s : State) : Host.Outcome State Fault Refusal := s.stream f.toList

end Sys2Proof.Machine
end

