-- ==== Sys2Proof/Machine/Validator.lean ====
section
/-! DEFINITION. Machine/Validator.lean: VALIDATE, the modulo-256 sum check (41_validator.md). -/

namespace Sys2Proof.Machine

/-- VALIDATE(f) (R141): "no register is read or written"; its boolean goes back to the caller. -/
def execValidate (f : Frame) (s : State) : Host.Outcome State Fault Refusal :=
  .next (s.returning (.verdict (validateFrame f)))

end Sys2Proof.Machine
end

