-- ==== Sys2Proof/Machine/Dispatch.lean ====
section
/-! DEFINITION. Machine/Dispatch.lean: exec, one arm per row of the opcode table. -/

namespace Sys2Proof.Machine

def exec (i : Instr) (s : State) : Host.Outcome State Fault Refusal :=
  match i with
  | .idle => Sys2Proof.Machine.execIdle s
  | .rxbyte b => Sys2Proof.Machine.execRxbyte b s
  | .flush => Sys2Proof.Machine.execFlush s
  | .init => Sys2Proof.Machine.execInit s
  | .validate f => Sys2Proof.Machine.execValidate f s
  | .reanchor f => Sys2Proof.Machine.execReanchor f s
  | .accept f => Sys2Proof.Machine.execAccept f s
  | .decode f => Sys2Proof.Machine.execDecode f s
  | .convert d => Sys2Proof.Machine.execConvert d s
  | .frame f => Sys2Proof.Machine.execFrame f s

end Sys2Proof.Machine
end

