-- ==== Sys2Proof/Machine/Step.lean ====
section
/-! DEFINITION. Machine/Step.lean: one step: what the port presents is taken, decoded and executed to completion (00_scope.md
R15); the reset line comes before the command (70_reset_and_hazards.md R240). -/

namespace Sys2Proof.Machine

/-- One step. -/
def step (s : State) : Host.Outcome State Fault Refusal :=
  if s.fetch.rst then .next s.presented.hardwareReset
  else exec (decodeWord s.fetch.word) s.presented

/-- `s` with the table word presented next, at the present levels of the configuration inputs. -/
def State.withFetchWord (s : State) (nbits w : Nat) : State := s.presentBytes (tableBytes nbits w)

end Sys2Proof.Machine
end

