-- ==== Sys2Proof/Machine/ReadPort.lean ====
section
/-! DEFINITION. Machine/ReadPort.lean: what the consumer sees: the output pins at the end of a command (30_encoding.md R93) and
the registers of group M, each `none` while it is unspecified (R94, R46, 60_exceptions.md R221). Every function here only reads (R68). -/

namespace Sys2Proof.Machine

/-- The number of an outcome on `out_outcome[1:0]` (R211). -/
def OutcomeCode.pins : OutcomeCode → BitVec 2
  | .none => 0
  | .reading => 1
  | .incomplete => 2
  | .checksumInvalid => 3

/-- The output pins (R93), each value beside its valid bit. -/
structure OutPins where
  outcome : BitVec 2
  v : BitVec Config.vW
  vValid : Bool
  i : BitVec Config.iW
  iValid : Bool
  p : BitVec Config.pW
  pValid : Bool
  s : BitVec Config.sW
  sValid : Bool
  pf : BitVec Config.pfW
  pfValid : Bool
  cum : BitVec Config.cumW
deriving DecidableEq, Repr

/-- A value whose valid bit is 0 "is driven as all zeros"; with NONE or CHECKSUM_INVALID all are (R93). -/
def Output.pins (o : Output) : OutPins :=
  match o.reading with
  | some r =>
    { outcome := o.code.pins
      v := r.voltage.getD 0, vValid := r.voltage.isSome
      i := r.current.getD 0, iValid := r.current.isSome
      p := r.activePower.getD 0, pValid := r.activePower.isSome
      s := r.apparentPower.getD 0, sValid := r.apparentPower.isSome
      pf := r.powerFactor.getD 0, pfValid := r.powerFactor.isSome
      cum := r.cumulativePulses }
  | none =>
    { outcome := o.code.pins
      v := 0, vValid := false, i := 0, iValid := false, p := 0, pValid := false
      s := 0, sValid := false, pf := 0, pfValid := false, cum := 0 }

/-- A held register with its valid bit: no value while the bit is 0 (R40, U1). -/
def gated {α : Type} (valid : Bool) (a : α) : Option α := if valid then some a else none

/-- Group M as the consumer reads it (R94): each register, or no value where R46 leaves it unspecified. The valid bits show as
`some` or `none`. -/
structure MeterView where
  inited : Bool
  kv : Option (BitVec Config.kW)
  ki : Option (BitVec Config.kW)
  ovfCnt : BitVec Config.ovfW
  ovfSat : Bool
  frameCnt : BitVec Config.frameCntW
  lastFrame : Option Frame
  lastV : Option (BitVec Config.vW)
  lastI : Option (BitVec Config.iW)
  lastP : Option (BitVec Config.pW)
  lastS : Option (BitVec Config.sW)
  lastPf : Option (BitVec Config.pfW)
  lastCum : BitVec Config.cumW
deriving DecidableEq, Repr

@[inherit_doc MeterView]
def Meter.view (m : Meter) : MeterView where
  inited := m.inited
  kv := m.kvValue
  ki := m.kiValue
  ovfCnt := m.ovfCnt
  ovfSat := m.ovfSat
  frameCnt := m.frameCnt
  lastFrame := gated m.lastFrameValid m.lastFrame
  lastV := gated m.lastVValid m.lastV
  lastI := gated m.lastIValid m.lastI
  lastP := gated m.lastPValid m.lastP
  lastS := gated m.lastSValid m.lastS
  lastPf := gated m.lastPfValid m.lastPf
  lastCum := m.lastCum

/-- Group S without its unspecified contents: MODE, CNT, the window, and the bytes held in FB, FB[0] first (R24, R25). The consumer
cannot read it (R94); it is what a later outcome can depend on (R44). -/
structure SyncView where
  mode : Mode
  cnt : BitVec 5
  window : Option Byte
  held : List Byte
deriving DecidableEq, Repr

@[inherit_doc SyncView]
def Sync.view (g : Sync) : SyncView where
  mode := g.mode
  cnt := g.cnt
  window := g.window
  held := (List.range g.cnt.toNat).map g.fb.read

/-- A state without its unspecified contents. -/
structure View where
  sync : SyncView
  meter : MeterView
  outs : List Output
  stage : StageResult
  env : Env
deriving DecidableEq, Repr

@[inherit_doc View]
def State.view (s : State) : View where
  sync := s.sync.view
  meter := s.meter.view
  outs := s.outs
  stage := s.stage
  env := s.env

end Sys2Proof.Machine
end

