-- ==== Sys2Proof/Safety.lean ====
section
/-! DEFINITION. Safety.lean: what a claim may assume of a reachable state, and what a safe step is. -/

namespace Sys2Proof.Machine

/-- The invariants of group S (10_state.md R26), with the canonical form of the frame buffer. -/
structure Sync.Inv (g : Sync) (inited : Bool) : Prop where
  /-- R26 (a) -/
  hunt_iff : g.mode = .hunt ↔ g.cnt = 0
  /-- R26 (b) -/
  collect : g.mode = .collect →
    2 ≤ g.cnt.toNat ∧ g.cnt.toNat ≤ 23 ∧ g.fb.read 1 = Config.syncMarker ∧ g.winValid = false
  /-- R26 (c) -/
  uninit : inited = false → g.mode = .hunt ∧ g.cnt = 0 ∧ g.winValid = false
  /-- The store of R60 is in canonical form, inside its 24 offsets. -/
  fb_wf : g.fb.wf = true

/-- What group M keeps to (R28 to R40): it is blank until INIT and until the first accepted frame, the last accepted frame was
a good one, OVF_SAT marks a full counter, LAST_CUM goes with OVF_CNT and the last frame's PulseCount. -/
structure Meter.Inv (m : Meter) : Prop where
  /-- R29, R244 -/
  calibrated : m.inited = true → m.kv ≠ 0 ∧ m.ki ≠ 0
  /-- R240, R241, R195 -/
  blank : m.lastFrameValid = false →
    m.ovfCnt = 0 ∧ m.ovfSat = false ∧ m.frameCnt = 0 ∧ m.lastCum = 0 ∧ m.lastVValid = false ∧
      m.lastIValid = false ∧ m.lastPValid = false ∧ m.lastSValid = false ∧ m.lastPfValid = false
  /-- R28, R241 -/
  uninit : m.inited = false → m.lastFrameValid = false
  /-- R32, R194 -/
  counted : m.lastFrameValid = true → m.frameCnt ≠ 0
  /-- R33, R67 -/
  accepted : m.lastFrameValid = true → syncMatches m.lastFrame = true ∧ validateFrame m.lastFrame = true
  /-- R190, R194 -/
  cumulative : m.lastFrameValid = true → m.lastCum = m.ovfCnt ++ (decodeFields m.lastFrame).pulse
  /-- R189 -/
  saturated : m.ovfSat = true → m.ovfCnt = BitVec.allOnes Config.ovfW
  /-- R183 -/
  apparent : m.lastSValid = true → m.lastVValid = true ∧ m.lastIValid = true
  /-- R185 -/
  factor : m.lastPfValid = true → m.lastPValid = true ∧ m.lastSValid = true

/-- The invariant of a reachable state. -/
structure State.Inv (s : State) : Prop where
  sync : s.sync.Inv s.meter.inited
  meter : s.meter.Inv

/-- The commands of the port (R17, R86). -/
def commandOnly : Instr → Bool
  | .idle => true
  | .rxbyte _ => true
  | .flush => true
  | .init => true
  | .validate _ => false
  | .reanchor _ => false
  | .accept _ => false
  | .decode _ => false
  | .convert _ => false
  | .frame _ => false

/-- A run of commands, one after another: the outputs of each in order, and the final state (R256). No result when one
of them stops. -/
def runCommands : List Instr → State → Option (List Output × State)
  | [], s => some ([], s)
  | i :: is, s =>
    match exec i s with
    | .next t => (runCommands is t).map fun p => (t.outs ++ p.1, p.2)
    | .fault _ => none
    | .refused _ => none

/-- STREAM (R100) as a run: one RXBYTE per byte. -/
def runBytes (bs : List Byte) (s : State) : Option (List Output × State) := runCommands (bs.map .rxbyte) s

/-- An output that reports an accepted frame (R211). -/
def Output.isAcceptance (o : Output) : Bool := o.code == .reading || o.code == .incomplete

/-- An output worth a strobe: "outcome is not NONE" (R217). -/
def Output.isEvent (o : Output) : Bool := o.code != .none

/-- The same outcome with its next state changed by `g`. -/
def mapNext (g : State → State) : Host.Outcome State Fault Refusal → Host.Outcome State Fault Refusal
  | .next t => .next (g t)
  | .fault r => .fault r
  | .refused r => .refused r

/-- The configuration inputs at other levels (R43 b). -/
def State.withCfg (s : State) (kv ki : BitVec Config.kW) : State :=
  { s with env := { s.env with cfgKv := kv, cfgKi := ki } }

/-- Two outcomes that look alike: next states with the same view, or the same stop. -/
def sameOutcome : Host.Outcome State Fault Refusal → Host.Outcome State Fault Refusal → Prop
  | .next s, .next t => s.view = t.view
  | .fault r, .fault q => r = q
  | .refused r, .refused q => r = q
  | _, _ => False

/-- A step is safe when it does not end in a fault. -/
def StepSafe (s : State) : Prop := ∀ r, step s ≠ .fault r

end Sys2Proof.Machine
end

