-- ==== Sys2Proof/Certificates/Slice0/Obligations.lean ====
section
/-! DEFINITION. Certificates/Slice0/Obligations.lean: the statements for the provers, each from the numbered rules of spec/. -/

open Sys2Proof Sys2Proof.Machine

/-! ### Encoding -/

/-- Decode and encode agree for every well-formed instruction: a command or a FRAME decodes to itself, and the word of a stage function
with a frame operand decodes to the RXBYTE that completed the frame, that of offset 23 (R86 to R90, R80, R96, R101). The model's
choices: that CONVERT has no word, for R101 gives it RXBYTE's encoding too but its operand does not hold the byte (log entry 10); the
byte layout of a command word (log entry 5); that a FRAME is an instruction of 24 bytes (log entry 11). -/
def Obligations.DecodeOfEncode : Prop :=
  ∀ i : Instr, i.wf = true →
    (encode i).map decode =
      match i with
      | .idle => some (.ok .idle)
      | .rxbyte b => some (.ok (.rxbyte b))
      | .flush => some (.ok .flush)
      | .init => some (.ok .init)
      | .validate f => some (.ok (.rxbyte f[23]))
      | .reanchor f => some (.ok (.rxbyte f[23]))
      | .accept f => some (.ok (.rxbyte f[23]))
      | .decode f => some (.ok (.rxbyte f[23]))
      | .convert _ => none
      | .frame f => some (.ok (.frame f))

/-- The other direction: a byte string that decodes stands for one well-formed instruction, and it is that instruction's encoding,
but for the data bits the three commands without operand ignore (R80, R86, R95, R96). The model's
choices: the byte layout of a command word (log entry 5), and that any 24 bytes are a FRAME on the port (log entry 11). -/
def Obligations.EncodeOfDecode : Prop :=
  ∀ (bs : List Byte) (i : Instr), decode bs = .ok i →
    i.wf = true ∧
      ((∃ b, i = .rxbyte b ∧ encode i = some bs) ∨ (∃ f, i = .frame f ∧ encode i = some bs) ∨
        ((i = .idle ∨ i = .flush ∨ i = .init) ∧ ∃ data op, bs = [data, op] ∧ encode i = some [0, op]))

/-- "All four values of `op` are assigned, so no command word is illegal", and the data of IDLE, FLUSH and INIT is ignored (R95, R86). The
words are the 10 bits of the port. -/
def Obligations.EveryCommandWordDecodes : Prop :=
  ∀ data : Byte,
    decodeCommand (0b00#2 ++ data) = .idle ∧ decodeCommand (0b01#2 ++ data) = .rxbyte data ∧
      decodeCommand (0b10#2 ++ data) = .flush ∧ decodeCommand (0b11#2 ++ data) = .init

/-- A few words as R99 writes them, and the frame of the source's example (95_test_vectors.md S1). That the two bytes of a command word are
bits 7:0 and then bits 9:8 is the model's choice (log entry 5). -/
def Obligations.WrittenWordsDecode : Prop :=
  decodeTableWord 16 0x000 = some .idle ∧
    decodeTableWord 16 0x15A = some (.rxbyte 0x5A) ∧
    decodeTableWord 16 0x200 = some .flush ∧
    decodeTableWord 16 0x300 = some .init ∧
    decodeTableWord 192 0x005A00006400003200006400000A000064000005700001DE =
      some (.frame #v[0x00, 0x5A, 0x00, 0x00, 0x64, 0x00, 0x00, 0x32, 0x00, 0x00, 0x64, 0x00,
        0x00, 0x0A, 0x00, 0x00, 0x64, 0x00, 0x00, 0x05, 0x70, 0x00, 0x01, 0xDE])

/-! ### The step -/

/-- A step runs the decoded instruction (R15): when the reset line is low, the step is exec of the instruction the word on the port
stands for, which is well-formed and what every byte string of that word decodes to, in the state in which the item is consumed and
the configuration inputs stand at its levels. With nothing presented the step is that of IDLE. With the
reset line high it is hardware reset (R240). The model's choices in it: IDLE for an empty list (log entry 4); that a FRAME
item, which is 24 commands, is one step, where R15 makes a step one command (log entry 11); that each item brings
its own levels of the configuration inputs (log entries 6, 12); that reset is a line of the port item, beside which the word is not
executed, and that it empties the outputs (log entry 13). -/
def Obligations.StepRunsDecoded : Prop :=
  (∀ (s : State) (x : PortItem) (rest : List PortItem), s.env.input = x :: rest → x.rst = false →
      (decodeWord x.word).wf = true ∧
        step s =
          exec (decodeWord x.word)
            { s with env := { s.env with input := rest, cfgKv := x.cfgKv, cfgKi := x.cfgKi } }) ∧
    (∀ (s : State) (x : PortItem) (rest : List PortItem) (bs : List Byte) (i : Instr),
      s.env.input = x :: rest → x.rst = false → portWord bs = .ok x.word → decode bs = .ok i →
      step s = exec i { s with env := { s.env with input := rest, cfgKv := x.cfgKv, cfgKi := x.cfgKi } }) ∧
    (∀ s : State, s.env.input = [] → step s = exec .idle s) ∧
    (∀ (s : State) (x : PortItem) (rest : List PortItem), s.env.input = x :: rest → x.rst = true →
      step s =
        .next ({ s with env :=
          { s.env with input := rest, cfgKv := x.cfgKv, cfgKi := x.cfgKi } } : State).hardwareReset)

/-- The environment is nobody's to change: no instruction touches the inputs still to come, the levels of the configuration
inputs or the POWER_OOR strap ("no command changes them", R43 b, c). -/
def Obligations.InstructionsLeaveEnvironment : Prop :=
  ∀ (i : Instr) (s t : State), exec i s = .next t → t.env = s.env

/-! ### IDLE, RXBYTE, FLUSH -/

/-- IDLE writes no register and reports NONE, and IDLE commands anywhere in a command sequence change neither the final registers nor
the sequence of outcomes other than NONE (R111). -/
def Obligations.IdleChangesNothing : Prop :=
  (∀ data : Byte, decodeCommand (0b00#2 ++ data) = .idle) ∧
    (∀ s : State, exec .idle s = .next { s with outs := [⟨.none, none⟩], stage := .empty }) ∧
    ∀ (cs : List Instr) (s : State), (∀ c ∈ cs, commandOnly c = true) →
      ((runCommands (cs.filter (· ≠ .idle)) s).map fun p =>
          (p.1.filter Output.isEvent, p.2.sync, p.2.meter)) =
        (runCommands cs s).map fun p => (p.1.filter Output.isEvent, p.2.sync, p.2.meter)

/-- Before the first INIT any sequence of IDLE, RXBYTE and FLUSH changes no register and reports only NONE (R241). -/
def Obligations.IgnoredBeforeInit : Prop :=
  ∀ (cs : List Instr) (s : State), s.meter.inited = false → s.sync.mode = .hunt → s.sync.cnt = 0 →
    s.sync.winValid = false → (∀ c ∈ cs, c = .idle ∨ c = .flush ∨ ∃ b, c = .rxbyte b) →
    ∃ os t, runCommands cs s = some (os, t) ∧ t.sync = s.sync ∧ t.meter = s.meter ∧ t.env = s.env ∧
      os = List.replicate cs.length ⟨.none, none⟩

/-- RXBYTE b in HUNT with no anchor, a marker with no byte before it among them (R113, R115). That FB, unspecified in HUNT (R25), keeps its
raw bytes is the model's choice (log entry 2). -/
def Obligations.RxbyteHuntsOn : Prop :=
  ∀ (s : State) (b : Byte), s.meter.inited = true → s.sync.mode = .hunt →
    (s.sync.winValid = false ∨ b ≠ Config.syncMarker) →
    exec (.rxbyte b) s =
      .next { s with
        sync := { s.sync with winPrev := b, winValid := true }
        outs := [⟨.none, none⟩]
        stage := .empty }

/-- RXBYTE b in HUNT with an anchor (R114): FB[0] takes WIN_PREV, FB[1] the marker, every other byte of FB reads as before, and group
M is untouched. FB from offset 2 on is unspecified here (R25): that it reads as before is the model's choice (log entry 2). -/
def Obligations.RxbyteAnchors : Prop :=
  ∀ (s : State) (b : Byte), s.meter.inited = true → s.sync.mode = .hunt →
    s.sync.winValid = true → b = Config.syncMarker →
    ∃ t, exec (.rxbyte b) s = .next t ∧
      t.sync.mode = .collect ∧ t.sync.cnt = 2 ∧ t.sync.winValid = false ∧
      t.sync.fb.read 0 = s.sync.winPrev ∧ t.sync.fb.read 1 = Config.syncMarker ∧
      (∀ a, a ≠ 0 → a ≠ 1 → t.sync.fb.read a = s.sync.fb.read a) ∧
      t.meter = s.meter ∧ t.env = s.env ∧ t.outs = [⟨.none, none⟩]

/-- RXBYTE b in COLLECT with CNT < 23 (R116): the byte goes to offset CNT "as received", every other byte of FB reads as before, and
CNT counts on. That WIN_PREV (R24) and FB above the new byte (R25), both unspecified here, keep their raw bytes is the model's choice
(log entry 2). -/
def Obligations.RxbyteCollects : Prop :=
  ∀ (s : State) (b : Byte), s.meter.inited = true → s.sync.mode = .collect → s.sync.cnt.toNat < 23 →
    ∃ t, exec (.rxbyte b) s = .next t ∧
      t.sync.mode = .collect ∧ t.sync.cnt.toNat = s.sync.cnt.toNat + 1 ∧
      t.sync.winValid = s.sync.winValid ∧ t.sync.winPrev = s.sync.winPrev ∧
      t.sync.fb.read s.sync.cnt.toNat = b ∧
      (∀ a, a ≠ s.sync.cnt.toNat → t.sync.fb.read a = s.sync.fb.read a) ∧
      t.meter = s.meter ∧ t.env = s.env ∧ t.outs = [⟨.none, none⟩]

/-- RXBYTE b in COLLECT with CNT = 23 is its stage functions in R117's order: VALIDATE of FB[0..22] and b, then ACCEPT and back to
hunting with an empty window (R120), or CHECKSUM_INVALID and REANCHOR. What it says of the bytes of FB that R25 leaves unspecified
afterwards is the model's choice (log entry 2). -/
def Obligations.RxbyteCompletesByStages : Prop :=
  ∀ (s : State) (b : Byte) (f : Frame), s.meter.inited = true → s.sync.mode = .collect → s.sync.cnt = 23 →
    (∀ (k : Nat) (h : k < 24), f[k] = if k = 23 then b else s.sync.fb.read k) →
    ∃ (valid : Bool) (v a r : State),
      exec (.validate f) { s with sync := { s.sync with fb := s.sync.fb.write 23 b } } = .next v ∧
      v.stage = .verdict valid ∧
      exec (.accept f) { s with sync := { s.sync with fb := s.sync.fb.write 23 b } } = .next a ∧
      exec (.reanchor f) { s with sync := { s.sync with fb := s.sync.fb.write 23 b } } = .next r ∧
      exec (.rxbyte b) s =
        .next
          (if valid then
            { a with sync := { a.sync with mode := .hunt, cnt := 0, winValid := false }, stage := .empty }
          else { r with outs := [⟨.checksumInvalid, none⟩], stage := .empty })

/-- A candidate takes effect as a whole or not at all (R67, R214): an accepted one is LAST_FRAME, counted and reported with its Reading in the
command that delivered its last byte; a rejected one changes no register of group M. -/
def Obligations.CandidateIsJudgedWhole : Prop :=
  ∀ (s : State) (b : Byte) (f : Frame), s.meter.inited = true → s.sync.mode = .collect → s.sync.cnt = 23 →
    (∀ (k : Nat) (h : k < 24), f[k] = if k = 23 then b else s.sync.fb.read k) →
    ∃ t, exec (.rxbyte b) s = .next t ∧ t.env = s.env ∧
      if validateFrame f = true then
        t.meter.lastFrameValid = true ∧ t.meter.lastFrame = f ∧
          t.meter.frameCnt.toNat = min (s.meter.frameCnt.toNat + 1) 0xFFFFFFFF ∧
          t.sync.mode = .hunt ∧ t.sync.cnt = 0 ∧ t.sync.winValid = false ∧
          ∃ r, t.outs = [⟨if r.complete then .reading else .incomplete, some r⟩] ∧
            t.meter.lastCum = r.cumulativePulses
      else t.meter = s.meter ∧ t.outs = [⟨.checksumInvalid, none⟩]

/-- RXBYTE where CNT is 24 or more has no offset to store at and no rule: the model stops (log entry 9, the model's choice; no state that
meets R26 is one of these). -/
def Obligations.RxbyteBeyondBufferFaults : Prop :=
  ∀ (s : State) (b : Byte), s.meter.inited = true → s.sync.mode = .collect → 24 ≤ s.sync.cnt.toNat →
    exec (.rxbyte b) s = .fault (.noSuchOffset s.sync.cnt.toNat)

/-- REANCHOR(f) (R118): with j the least offset in 2..23 that holds the marker, f[j-1..23] moves down to FB[0..24-j] and
collecting goes on at 25 - j; with no such offset hunting goes on behind f[23]. FB from the new
CNT on is unspecified (R25): that it reads as before is the model's choice (log entry 2). -/
def Obligations.ReanchorRescans : Prop :=
  ∀ (s : State) (f : Frame), ∃ t, exec (.reanchor f) s = .next t ∧
    t.meter = s.meter ∧ t.env = s.env ∧ t.outs = s.outs ∧
    (∀ (j : Nat) (hj : j < 24) (h2 : 2 ≤ j), f[j] = Config.syncMarker →
      (∀ (k : Nat) (hk : k < j), 2 ≤ k → f[k] ≠ Config.syncMarker) →
      t.sync.mode = .collect ∧ t.sync.cnt.toNat = 25 - j ∧ t.sync.winValid = false ∧
        (∀ (a : Nat) (ha : a ≤ 24 - j), t.sync.fb.read a = f[j - 1 + a]) ∧
        ∀ a, 24 - j < a → t.sync.fb.read a = s.sync.fb.read a) ∧
    ((∀ (j : Nat) (hj : j < 24), 2 ≤ j → f[j] ≠ Config.syncMarker) →
      t.sync.mode = .hunt ∧ t.sync.cnt = 0 ∧ t.sync.winPrev = f[23] ∧ t.sync.winValid = true ∧
        ∀ a, t.sync.fb.read a = s.sync.fb.read a)

/-- REANCHOR is equal to a replay (R119, which the spec derives from R113, R114, R116 and R118): the 22 bytes after the old
anchor, received again behind the old Sync byte, leave the same MODE, CNT, window and held bytes. -/
def Obligations.ReanchorIsReplay : Prop :=
  ∀ (s : State) (f : Frame), s.meter.inited = true →
    ∃ os u t,
      runBytes (f.toList.drop 2)
        { s with sync := { s.sync with mode := .hunt, cnt := 0, winPrev := f[1], winValid := true } } =
          some (os, u) ∧
      exec (.reanchor f) s = .next t ∧ u.sync.view = t.sync.view ∧ u.meter = t.meter

/-- FLUSH (R121): back to hunting with an empty window when INITED = 1, nothing while it is 0; group M survives; NONE. -/
def Obligations.FlushDiscardsCandidate : Prop :=
  (∀ data : Byte, decodeCommand (0b10#2 ++ data) = .flush) ∧
  ∀ s : State, ∃ t, exec .flush s = .next t ∧
    t.meter = s.meter ∧ t.env = s.env ∧ t.outs = [⟨.none, none⟩] ∧
    (s.meter.inited = true → t.sync.mode = .hunt ∧ t.sync.cnt = 0 ∧ t.sync.winValid = false) ∧
    (s.meter.inited = false → t.sync = s.sync)

/-- The instructions that store nothing leave every byte of FB as it was. R46 leaves FB unspecified after INIT and FLUSH, and R25
from CNT on in every state: that such bytes are kept is the model's choice (log entry 2). -/
def Obligations.NothingElseStores : Prop :=
  ∀ (i : Instr) (s t : State),
    i = .idle ∨ i = .flush ∨ i = .init ∨ (∃ f, i = .validate f) ∨ (∃ f, i = .accept f) ∨ (∃ f, i = .decode f) ∨
      (∃ d, i = .convert d) →
    exec i s = .next t → ∀ a, t.sync.fb.read a = s.sync.fb.read a

/-! ### INIT and reset -/

/-- INIT (R171): the constants are sampled, everything of the old lifetime is forgotten, outcome NONE. -/
def Obligations.InitStartsLifetime : Prop :=
  (∀ data : Byte, decodeCommand (0b11#2 ++ data) = .init) ∧
  ∀ s : State, s.env.cfgKv ≠ 0 → s.env.cfgKi ≠ 0 →
    ∃ t, exec .init s = .next t ∧
      t.meter.view =
        { inited := true, kv := some s.env.cfgKv, ki := some s.env.cfgKi
          ovfCnt := 0, ovfSat := false, frameCnt := 0
          lastFrame := none, lastV := none, lastI := none, lastP := none, lastS := none, lastPf := none
          lastCum := 0 } ∧
      t.sync.mode = .hunt ∧ t.sync.cnt = 0 ∧ t.sync.winValid = false ∧
      t.env = s.env ∧ t.outs = [⟨.none, none⟩]

/-- INIT with a zero constant is refused (R244). -/
def Obligations.InitRefusesZeroConstant : Prop :=
  ∀ s : State, s.env.cfgKv = 0 ∨ s.env.cfgKi = 0 → exec .init s = .refused .zeroCalibration

/-- Hardware reset (R240), from any state: every register at the value R240 names, the unspecified ones without a value, and the
environment kept. The machine's reset state looks so too. That the reset input is a line of the port item, which brings its own levels
of the configuration inputs, is the model's choice (log entries 6, 12, 13). -/
def Obligations.HardwareResetLeaves : Prop :=
  (∀ (s : State) (x : PortItem) (rest : List PortItem), s.env.input = x :: rest → x.rst = true →
    ∃ t, step s = .next t ∧
      t.sync.view = { mode := .hunt, cnt := 0, window := none, held := [] } ∧
      t.meter.view =
        { inited := false, kv := none, ki := none, ovfCnt := 0, ovfSat := false, frameCnt := 0
          lastFrame := none, lastV := none, lastI := none, lastP := none, lastS := none
          lastPf := none, lastCum := 0 } ∧
      t.env = { s.env with input := rest, cfgKv := x.cfgKv, cfgKi := x.cfgKi }) ∧
    State.reset.sync.view = State.reset.hardwareReset.sync.view ∧
    State.reset.meter.view = State.reset.hardwareReset.meter.view

/-- `cfg_kv` and `cfg_ki` are sampled by INIT "and at no other time" (R72): every other instruction gives the same at any levels of
the two inputs. -/
def Obligations.OnlyInitSamplesConfiguration : Prop :=
  ∀ (i : Instr) (s : State) (kv ki : BitVec 32), i ≠ .init →
    exec i (s.withCfg kv ki) = mapNext (fun t => t.withCfg kv ki) (exec i s)

/-! ### VALIDATE -/

/-- VALIDATE(f) (R141): true exactly when the natural-number sum of offsets 2 to 22 modulo 256 is offset 23; the wrapping 8-bit
accumulator agrees; no register is written. -/
def Obligations.ValidateIsSumCheck : Prop :=
  ∀ (f : Frame) (s : State), ∃ valid : Bool,
    exec (.validate f) s = .next { s with stage := .verdict valid } ∧
    (valid = true ↔ (∑ k : Fin 21, f[k.val + 2].toNat) % 256 = f[23].toNat) ∧
    (valid = true ↔ ((f.toList.drop 2).take 21).foldl (· + ·) 0 = f[23])

/-- The laws of the sum check (R145): every payload has exactly one checksum that validates, whatever Status and Sync are; a change at
exactly one offset among 2 to 23 never validates; two changes that cancel, a permutation of offsets 2 to 22, and changes at offsets 0
and 1 leave the result as it was. -/
def Obligations.SumCheckLaws : Prop :=
  (∀ f : Frame, ∃! c : Byte, validateFrame (f.set 23 c) = true) ∧
    (∀ (f : Frame) (o : Nat) (ho : o < 24) (v : Byte), validateFrame f = true → 2 ≤ o → v ≠ f[o] →
      validateFrame (f.set o v) = false) ∧
    (∀ (f : Frame) (o p : Nat) (ho : o < 23) (hp : p < 23) (d : Byte), 2 ≤ o → 2 ≤ p → o ≠ p →
      validateFrame ((f.set o (f[o] + d)).set p (f[p] - d)) = validateFrame f) ∧
    (∀ f g : Frame, ((f.toList.drop 2).take 21).Perm ((g.toList.drop 2).take 21) → f[23] = g[23] →
      validateFrame f = validateFrame g) ∧
    ∀ (f : Frame) (a b : Byte), validateFrame ((f.set 0 a).set 1 b) = validateFrame f

/-! ### DECODE -/

/-- DECODE(f) (R152): each field at its offsets, most significant byte first; a measured register present exactly when its bit of
offset 20 is set (voltage BIT_A, current BIT_B, power BIT_C); the overflow bit is BIT_D; no register is written. -/
def Obligations.DecodeReadsFields : Prop :=
  ∀ (f : Frame) (s : State), ∃ d : DecodedFields,
    exec (.decode f) s = .next { s with stage := .fields d } ∧
    d.status = f[0] ∧
    d.vpar.toNat = f[2].toNat * 65536 + f[3].toNat * 256 + f[4].toNat ∧
    d.vreg.map BitVec.toNat =
      (if f[20].getLsbD Config.bitA = false then none else some (f[5].toNat * 65536 + f[6].toNat * 256 + f[7].toNat)) ∧
    d.ipar.toNat = f[8].toNat * 65536 + f[9].toNat * 256 + f[10].toNat ∧
    d.ireg.map BitVec.toNat =
      (if f[20].getLsbD Config.bitB = false then none else some (f[11].toNat * 65536 + f[12].toNat * 256 + f[13].toNat)) ∧
    d.ppar.toNat = f[14].toNat * 65536 + f[15].toNat * 256 + f[16].toNat ∧
    d.preg.map BitVec.toNat =
      (if f[20].getLsbD Config.bitC = false then none else some (f[17].toNat * 65536 + f[18].toNat * 256 + f[19].toNat)) ∧
    d.flags = f[20] ∧
    (d.ovf = true ↔ f[20].getLsbD Config.bitD = true) ∧
    d.pulse.toNat = f[21].toNat * 256 + f[22].toNat

/-! ### CONVERT -/

/-- voltage and current (R176, R178): the exact floor, which fits the 56 bits (R177, R179); `none` exactly when the register is
unready or its parameter is zero. -/
def Obligations.ConvertScalesVoltageCurrent : Prop :=
  ∀ (d : DecodedFields) (s : State), s.meter.inited = true →
    ∃ t r, exec (.convert d) s = .next t ∧ t.stage = .reading r ∧
      (r.voltage.map BitVec.toNat =
        match d.vreg with
        | some x => if d.vpar = 0 then none else some (x.toNat * s.meter.kv.toNat / d.vpar.toNat)
        | none => none) ∧
      (r.current.map BitVec.toNat =
        match d.ireg with
        | some x => if d.ipar = 0 then none else some (x.toNat * s.meter.ki.toNat / d.ipar.toNat)
        | none => none)

/-- activePower (R180, R181, R182): POWER_OOR, whatever predicate the strap gives, forces a valid 0 before the ready bit and the parameter
are looked at; otherwise the exact floor, which fits the 72 bits. -/
def Obligations.ConvertScalesPower : Prop :=
  ∀ (d : DecodedFields) (s : State), s.meter.inited = true →
    ∃ t r, exec (.convert d) s = .next t ∧ t.stage = .reading r ∧
      r.activePower.map BitVec.toNat =
        if d.status ∈ s.env.oorStatuses then some 0
        else
          match d.preg with
          | some x =>
            if d.ppar = 0 then none
            else some (x.toNat * s.meter.kv.toNat * s.meter.ki.toNat / (d.ppar.toNat * 65536))
          | none => none

/-- apparentPower and powerFactor (R183 to R187) from the values of this same frame: exact floors that fit their widths, powerFactor 0 when
apparentPower is 0, `none` exactly when an operand is. -/
def Obligations.ConvertDerivesApparentAndFactor : Prop :=
  ∀ (d : DecodedFields) (s : State), s.meter.inited = true →
    ∃ t r, exec (.convert d) s = .next t ∧ t.stage = .reading r ∧
      (r.apparentPower.map BitVec.toNat =
        match r.voltage, r.current with
        | some a, some c => some (a.toNat * c.toNat / 65536)
        | _, _ => none) ∧
      (r.powerFactor.map BitVec.toNat =
        match r.activePower, r.apparentPower with
        | some p, some q => some (if q = 0 then 0 else p.toNat * 65536 / q.toNat)
        | _, _ => none)

/-- CONVERT writes OVF_CNT and OVF_SAT only (R188, R189, R190): one increment per set overflow bit, lost at 0xFFFF and then marked by the
sticky bit; cumulativePulses is OVF_CNT after the update times 65536 plus the pulse count. -/
def Obligations.ConvertCountsOverflow : Prop :=
  ∀ (d : DecodedFields) (s : State), ∃ t r, exec (.convert d) s = .next t ∧ t.stage = .reading r ∧
    t.meter =
      { s.meter with
        ovfCnt := if d.ovf = true ∧ s.meter.ovfCnt ≠ 0xFFFF then s.meter.ovfCnt + 1 else s.meter.ovfCnt
        ovfSat := s.meter.ovfSat || (d.ovf && decide (s.meter.ovfCnt = 0xFFFF)) } ∧
    t.meter.ovfCnt.toNat = (if d.ovf then min (s.meter.ovfCnt.toNat + 1) 0xFFFF else s.meter.ovfCnt.toNat) ∧
    r.cumulativePulses.toNat = t.meter.ovfCnt.toNat * 65536 + d.pulse.toNat ∧
    t.sync = s.sync ∧ t.env = s.env ∧ t.outs = s.outs

/-- CONVERT before INIT: KV and KI have no value, and no quantity that needs them gets one (R221; the block itself never converts then, so
this is the model's reading, log entry 8). -/
def Obligations.ConvertBeforeInitHasNoValue : Prop :=
  ∀ (d : DecodedFields) (s : State), s.meter.inited = false →
    ∃ t r, exec (.convert d) s = .next t ∧ t.stage = .reading r ∧ r.voltage = none ∧ r.current = none ∧
      r.apparentPower = none ∧ r.powerFactor = none ∧
      (d.status ∉ s.env.oorStatuses → r.activePower = none)

/-- Rounding (R196), over the rationals, everything in units of 2^-16: voltage, current and activePower are the exact values truncated,
and apparentPower is at most the exact product truncated and below it by less than V + I + 2 units, V the exact volts and I the exact
amperes. -/
def Obligations.RoundingErrorBounds : Prop :=
  ∀ (d : DecodedFields) (s : State) (t : State) (r : Reading) (x y z : BitVec 24)
    (v : BitVec 56) (i : BitVec 56) (p : BitVec 72) (q : BitVec 96),
    s.meter.inited = true → d.status ∉ s.env.oorStatuses →
    exec (.convert d) s = .next t → t.stage = .reading r →
    d.vreg = some x → d.ireg = some y → d.preg = some z →
    r.voltage = some v → r.current = some i → r.activePower = some p → r.apparentPower = some q →
    let exactV : ℚ := (x.toNat : ℚ) * s.meter.kv.toNat / d.vpar.toNat
    let exactI : ℚ := (y.toNat : ℚ) * s.meter.ki.toNat / d.ipar.toNat
    let exactP : ℚ := (z.toNat : ℚ) * s.meter.kv.toNat * s.meter.ki.toNat / (d.ppar.toNat * 65536)
    ((v.toNat : ℚ) ≤ exactV ∧ exactV < v.toNat + 1) ∧
      ((i.toNat : ℚ) ≤ exactI ∧ exactI < i.toNat + 1) ∧
      ((p.toNat : ℚ) ≤ exactP ∧ exactP < p.toNat + 1) ∧
      ((q.toNat : ℤ) ≤ ⌊exactV * exactI / 65536⌋ ∧
        exactV * exactI / 65536 - q.toNat < (exactV + exactI) / 65536 + 2)

/-! ### ACCEPT -/

/-- ACCEPT(f) (R173, R193, R194): one frame's whole effect on group M and the outputs. r is what CONVERT makes of what DECODE makes of f in
this state. -/
def Obligations.AcceptUpdatesMeter : Prop :=
  ∀ (f : Frame) (s : State), ∃ (u v t : State) (d : DecodedFields) (r : Reading),
    exec (.decode f) s = .next u ∧ u.stage = .fields d ∧ exec (.convert d) s = .next v ∧ v.stage = .reading r ∧
    exec (.accept f) s = .next t ∧
      t.sync = s.sync ∧ t.env = s.env ∧
      t.meter.inited = s.meter.inited ∧ t.meter.kv = s.meter.kv ∧ t.meter.ki = s.meter.ki ∧
      t.meter.ovfCnt = v.meter.ovfCnt ∧ t.meter.ovfSat = v.meter.ovfSat ∧
      t.meter.lastFrame = f ∧ t.meter.lastFrameValid = true ∧
      t.meter.frameCnt.toNat = min (s.meter.frameCnt.toNat + 1) 0xFFFFFFFF ∧
      t.meter.view.lastV = r.voltage.or s.meter.view.lastV ∧
      t.meter.view.lastI = r.current.or s.meter.view.lastI ∧
      t.meter.view.lastP = r.activePower.or s.meter.view.lastP ∧
      t.meter.view.lastS = r.apparentPower.or s.meter.view.lastS ∧
      t.meter.view.lastPf = r.powerFactor.or s.meter.view.lastPf ∧
      t.meter.lastCum = r.cumulativePulses ∧
      t.outs = [⟨if r.complete then .reading else .incomplete, some r⟩]

/-- RegisterUnready (R215, which the spec derives from R176 to R185), "the causes, exhaustively", as an accepted frame
reports them. The bit numbers 6, 5, 4 are the spec's own decision D3 (log entry 7). -/
def Obligations.UnreadyCauses : Prop :=
  ∀ (f : Frame) (s : State), s.meter.inited = true →
    ∃ t c r, exec (.accept f) s = .next t ∧ t.outs = [⟨c, some r⟩] ∧
      (r.voltage = none ↔ f[20] &&& 0x40 = 0 ∨ f[2] = 0 ∧ f[3] = 0 ∧ f[4] = 0) ∧
      (r.current = none ↔ f[20] &&& 0x20 = 0 ∨ f[8] = 0 ∧ f[9] = 0 ∧ f[10] = 0) ∧
      (r.activePower = none ↔
        f[0] ∉ s.env.oorStatuses ∧ (f[20] &&& 0x10 = 0 ∨ f[14] = 0 ∧ f[15] = 0 ∧ f[16] = 0)) ∧
      (r.apparentPower = none ↔ r.voltage = none ∨ r.current = none) ∧
      (r.powerFactor = none ↔ r.activePower = none ∨ r.apparentPower = none) ∧
      (c = .incomplete ↔
        r.voltage = none ∨ r.current = none ∨ r.activePower = none ∨ r.apparentPower = none ∨ r.powerFactor = none) ∧
      (c = .reading ∨ c = .incomplete)

/-- The laws of the pulse logic (R197, which the spec derives from R188 to R190): after INIT and a run of accepted frames of which
m have the overflow bit, OVF_CNT is min(m, 65535), OVF_SAT tells whether m exceeded it, and while m is at most 65535 the last frame's cumulativePulses is m times 65536 plus
its PulseCount; and the published value goes down when PulseCount does and the new frame has no overflow bit. That the bit is bit 7 of
offset 20 is the spec's own decision D3 (log entry 7). -/
def Obligations.PulseLaw : Prop :=
  (∀ (s₀ s : State) (fs : List Frame), exec .init s₀ = .next s →
    ∃ os t, runCommands (fs.map .accept) s = some (os, t) ∧
      t.meter.ovfCnt.toNat = min (fs.countP fun g => decide (g[20] &&& 0x80 ≠ 0)) 65535 ∧
      (t.meter.ovfSat = true ↔ 65535 < fs.countP fun g => decide (g[20] &&& 0x80 ≠ 0)) ∧
      ∀ (gs : List Frame) (f : Frame), fs = gs ++ [f] → (fs.countP fun g => decide (g[20] &&& 0x80 ≠ 0)) ≤ 65535 →
        t.meter.lastCum.toNat =
          (fs.countP fun g => decide (g[20] &&& 0x80 ≠ 0)) * 65536 + (f[21].toNat * 256 + f[22].toNat)) ∧
    ∀ (s t u : State) (f g : Frame), exec (.accept f) s = .next t → exec (.accept g) t = .next u →
      g[20] &&& 0x80 = 0 → g[21].toNat * 256 + g[22].toNat < f[21].toNat * 256 + f[22].toNat →
      u.meter.lastCum.toNat < t.meter.lastCum.toNat

/-! ### Invariants and whole-machine rules -/

/-- The invariants of group S hold after reset and every step keeps them (R26, which the spec derives from R112 to R121,
R171 and R240); the canonical form of FB among them is the model's own. -/
def Obligations.SyncInvariantKept : Prop :=
  State.reset.sync.Inv State.reset.meter.inited ∧
    ∀ s t : State, s.sync.Inv s.meter.inited → step s = .next t → t.sync.Inv t.meter.inited

/-- Every step keeps the whole invariant: that of group S, and that group M is blank until the first accepted frame, holds an accepted frame
after it, and keeps OVF_CNT, OVF_SAT, LAST_CUM and the valid bits together. -/
def Obligations.InvariantKept : Prop :=
  ∀ s t : State, s.Inv → step s = .next t → t.Inv

/-- The reset state meets the invariant. -/
def Obligations.ResetMeetsInvariant : Prop := State.reset.Inv

/-- "every command is defined in every reachable state" (R221): where the invariant of group S holds, every instruction completes, but for
INIT with a zero constant, which is refused; and no step faults or stops otherwise, whatever is presented: the block "never refuses
or delays a command" (R73). -/
def Obligations.EveryInstructionCompletes : Prop :=
  (∀ (s : State) (i : Instr), s.sync.Inv s.meter.inited →
    (i = .init → s.env.cfgKv ≠ 0 ∧ s.env.cfgKi ≠ 0) → ∃ t, exec i s = .next t) ∧
    ∀ s : State, s.sync.Inv s.meter.inited →
      StepSafe s ∧
        ((∃ t, step s = .next t) ∨
          (s.fetch.cfgKv = 0 ∨ s.fetch.cfgKi = 0) ∧ step s = .refused .zeroCalibration)

/-- The transitions of (MODE, CNT), row by row, with the outcome of each (R123, which the spec derives from R111 to R121 and R171). -/
def Obligations.ControlTransfers : Prop :=
  (∀ s : State, ∃ t, exec .idle s = .next t ∧
    t.sync.mode = s.sync.mode ∧ t.sync.cnt = s.sync.cnt ∧ t.outs = [⟨.none, none⟩]) ∧
  (∀ (s : State) (c : Instr), s.meter.inited = false → (c = .flush ∨ ∃ b, c = .rxbyte b) →
    ∃ t, exec c s = .next t ∧ t.sync.mode = s.sync.mode ∧ t.sync.cnt = s.sync.cnt ∧
      t.outs = [⟨.none, none⟩]) ∧
  (∀ (s : State) (b : Byte), s.meter.inited = true → s.sync.mode = .hunt → s.sync.cnt = 0 →
    ∃ t, exec (.rxbyte b) s = .next t ∧ t.outs = [⟨.none, none⟩] ∧
      if s.sync.winValid = true ∧ b = Config.syncMarker then t.sync.mode = .collect ∧ t.sync.cnt = 2
      else t.sync.mode = .hunt ∧ t.sync.cnt = 0) ∧
  (∀ (s : State) (b : Byte), s.meter.inited = true → s.sync.mode = .collect →
    2 ≤ s.sync.cnt.toNat → s.sync.cnt.toNat ≤ 22 →
    ∃ t, exec (.rxbyte b) s = .next t ∧ t.outs = [⟨.none, none⟩] ∧
      t.sync.mode = .collect ∧ t.sync.cnt.toNat = s.sync.cnt.toNat + 1) ∧
  (∀ (s : State) (b : Byte) (f : Frame), s.meter.inited = true → s.sync.mode = .collect → s.sync.cnt = 23 →
    (∀ (k : Nat) (h : k < 24), f[k] = if k = 23 then b else s.sync.fb.read k) →
    ∃ t o, exec (.rxbyte b) s = .next t ∧ t.outs = [o] ∧
      if validateFrame f = true then
        t.sync.mode = .hunt ∧ t.sync.cnt = 0 ∧ (o.code = .reading ∨ o.code = .incomplete)
      else
        o.code = .checksumInvalid ∧
          ((∃ (j : Nat) (hj : j < 24), 2 ≤ j ∧ f[j] = Config.syncMarker ∧
              (∀ (k : Nat) (hk : k < j), 2 ≤ k → f[k] ≠ Config.syncMarker) ∧
              t.sync.mode = .collect ∧ t.sync.cnt.toNat = 25 - j) ∨
            ((∀ (j : Nat) (hj : j < 24), 2 ≤ j → f[j] ≠ Config.syncMarker) ∧
              t.sync.mode = .hunt ∧ t.sync.cnt = 0))) ∧
  (∀ s : State, s.meter.inited = true →
    ∃ t, exec .flush s = .next t ∧ t.sync.mode = .hunt ∧ t.sync.cnt = 0 ∧ t.outs = [⟨.none, none⟩]) ∧
  (∀ s : State, s.env.cfgKv ≠ 0 → s.env.cfgKi ≠ 0 →
    ∃ t, exec .init s = .next t ∧ t.sync.mode = .hunt ∧ t.sync.cnt = 0 ∧ t.outs = [⟨.none, none⟩])

/-- No command reports anything but NONE except an RXBYTE that completes a candidate (R122, R218 (1)), and only a command that reports an accepted
frame, or INIT, writes group M. -/
def Obligations.OnlyCompletionReports : Prop :=
  ∀ (c : Instr) (s t : State), commandOnly c = true → exec c s = .next t →
    (t.outs = [⟨.none, none⟩] ∨
      (∃ b, c = .rxbyte b) ∧ s.meter.inited = true ∧ s.sync.mode = .collect ∧ s.sync.cnt = 23 ∧
        ∃ o, t.outs = [o] ∧ o.code ≠ .none) ∧
    (t.meter = s.meter ∨ c = .init ∨ ∃ o, t.outs = [o] ∧ o.isAcceptance = true)

/-- KV, KI and INITED are written by INIT alone, and between INITs the overflow counter, its sticky bit and the frame counter only rise
(R29, R30, R31, R32). -/
def Obligations.CountersOnlyRise : Prop :=
  ∀ (i : Instr) (s t : State), i ≠ .init → exec i s = .next t →
    t.meter.kv = s.meter.kv ∧ t.meter.ki = s.meter.ki ∧ t.meter.inited = s.meter.inited ∧
      s.meter.ovfCnt ≤ t.meter.ovfCnt ∧ (s.meter.ovfSat = true → t.meter.ovfSat = true) ∧
      s.meter.frameCnt ≤ t.meter.frameCnt ∧ (s.meter.lastFrameValid = true → t.meter.lastFrameValid = true) ∧
      (s.meter.lastVValid = true → t.meter.lastVValid = true)

/-- What R46 leaves unspecified is never observed: two states that differ only there take every instruction, and every step, to the same
outcome, outputs and visible registers. -/
def Obligations.UnspecifiedNeverObserved : Prop :=
  (∀ (i : Instr) (s t : State), s.view = t.view → sameOutcome (exec i s) (exec i t)) ∧
    ∀ s t : State, s.view = t.view → sameOutcome (step s) (step t)

/-! ### Streams -/

/-- FRAME is its 24 RXBYTE commands in order (R100), with all their outputs. That they are one instruction is the model's choice (log
entry 11). -/
def Obligations.FrameIsItsBytes : Prop :=
  ∀ (f : Frame) (s t : State), exec (.frame f) s = .next t ↔
    ∃ u, runBytes f.toList s = some (t.outs, u) ∧ t = { u with outs := t.outs }

/-- A FRAME presented to a hunting block with an empty window is accepted at its last byte and reports nothing before it, whatever its
Status is, 0x5A included (R120): group M and the last output are those of ACCEPT of the frame, and hunting goes on with an empty
window. FB is unspecified once CNT is 0 (R25): that it still holds the frame's bytes is the model's choice (log entry 2), and so is
FRAME as one instruction (log entry 11). -/
def Obligations.FrameIsAccepted : Prop :=
  ∀ (f : Frame) (s : State), s.meter.inited = true → s.sync.mode = .hunt → s.sync.winValid = false →
    f[1] = Config.syncMarker → validateFrame f = true →
    ∃ t a o, exec (.frame f) s = .next t ∧ exec (.accept f) s = .next a ∧
      t.meter = a.meter ∧ t.meter.view.lastFrame = some f ∧
      a.outs = [o] ∧ t.outs = List.replicate 23 ⟨.none, none⟩ ++ [o] ∧ o.isAcceptance = true ∧
      (∀ (k : Nat) (hk : k < 24), t.sync.fb.read k = f[k]) ∧
      (∀ k, 24 ≤ k → t.sync.fb.read k = s.sync.fb.read k) ∧
      t.sync.mode = .hunt ∧ t.sync.cnt = 0 ∧ t.sync.winValid = false ∧ t.env = s.env

/-- From a hunting block with an empty window (after INIT, FLUSH or an accepted frame) fewer than 24 bytes report nothing but NONE and leave
group M as it was (R125). -/
def Obligations.NoReportBefore24Bytes : Prop :=
  ∀ (bs : List Byte) (s : State), s.meter.inited = true → s.sync.mode = .hunt → s.sync.winValid = false →
    bs.length < 24 →
    ∃ os t, runBytes bs s = some (os, t) ∧ os = List.replicate bs.length ⟨.none, none⟩ ∧ t.meter = s.meter

/-- The resynchronisation law where the noise offers no earlier anchor (R124): no marker at positions 1 to K - 1, and either no noise or a
Status that is not the marker. The frame is accepted at its last byte and nothing else is reported. -/
def Obligations.CleanNoiseIsDropped : Prop :=
  ∀ (noise : List Byte) (f : Frame) (s : State), s.meter.inited = true → s.sync.mode = .hunt →
    s.sync.winValid = false → f[1] = Config.syncMarker → validateFrame f = true →
    (∀ (q : Nat) (hq : q < noise.length), 1 ≤ q → noise[q] ≠ Config.syncMarker) →
    (noise = [] ∨ f[0] ≠ Config.syncMarker) →
    ∃ os o t, runBytes (noise ++ f.toList) s = some (os ++ [o], t) ∧
      os = List.replicate (noise.length + 23) ⟨.none, none⟩ ∧ o.isAcceptance = true ∧
      t.meter.view.lastFrame = some f

/-- The resynchronisation law (R124): noise before a well-formed frame, presented to a hunting block with an empty window. The frame
is accepted, and is the only frame accepted, if and only if no candidate that starts at an earlier anchor validates. -/
def Obligations.ResynchronisationLaw : Prop :=
  ∀ (noise : List Byte) (f : Frame) (s : State), s.meter.inited = true → s.sync.mode = .hunt →
    s.sync.winValid = false → f[1] = Config.syncMarker → validateFrame f = true →
    ∃ os t, runBytes (noise ++ f.toList) s = some (os, t) ∧
      ((os.map Output.isAcceptance = List.replicate (noise.length + 23) false ++ [true] ∧
          t.meter.view.lastFrame = some f) ↔
        ∀ (q : Nat) (c : Frame), 1 ≤ q → q ≤ noise.length →
          (noise ++ f.toList)[q]? = some Config.syncMarker →
          c.toList = ((noise ++ f.toList).drop (q - 1)).take 24 → validateFrame c = false)

/-! ### What the consumer sees -/

/-- The output pins (R93): the outcome's number; a quantity that is `none` is driven as zeros with its valid bit 0; without a Reading
every value is zero and every valid bit 0. -/
def Obligations.OutputPinsDriven : Prop :=
  ∀ o : Output,
    (o.pins.outcome = match o.code with | .none => 0 | .reading => 1 | .incomplete => 2 | .checksumInvalid => 3) ∧
      match o.reading with
      | none =>
        o.pins.vValid = false ∧ o.pins.iValid = false ∧ o.pins.pValid = false ∧ o.pins.sValid = false ∧
          o.pins.pfValid = false ∧ o.pins.v = 0 ∧ o.pins.i = 0 ∧ o.pins.p = 0 ∧ o.pins.s = 0 ∧ o.pins.pf = 0 ∧
          o.pins.cum = 0
      | some r =>
        (if o.pins.vValid then r.voltage = some o.pins.v else r.voltage = none ∧ o.pins.v = 0) ∧
          (if o.pins.iValid then r.current = some o.pins.i else r.current = none ∧ o.pins.i = 0) ∧
          (if o.pins.pValid then r.activePower = some o.pins.p else r.activePower = none ∧ o.pins.p = 0) ∧
          (if o.pins.sValid then r.apparentPower = some o.pins.s else r.apparentPower = none ∧ o.pins.s = 0) ∧
          (if o.pins.pfValid then r.powerFactor = some o.pins.pf else r.powerFactor = none ∧ o.pins.pf = 0) ∧
          o.pins.cum = r.cumulativePulses

/-- No 24 bytes are illegal (R96): presented to a hunting block with an empty window they always complete. With the marker at offset 1
they are a candidate: accepted when the sum is right, and else rejected with CHECKSUM_INVALID at the last byte, group M untouched and
group S as REANCHOR leaves it. Without it they are no candidate, and report nothing. FRAME as one instruction is the model's
choice (log entry 11). -/
def Obligations.AnyFrameBytesRun : Prop :=
  ∀ (f : Frame) (s : State), s.meter.inited = true → s.sync.mode = .hunt → s.sync.winValid = false →
    ∃ t r, exec (.frame f) s = .next t ∧ exec (.reanchor f) s = .next r ∧ t.env = s.env ∧
      (f[1] = Config.syncMarker → validateFrame f = true →
        ∃ o, t.outs = List.replicate 23 ⟨.none, none⟩ ++ [o] ∧ o.isAcceptance = true ∧ t.meter.lastFrame = f) ∧
      (f[1] = Config.syncMarker → validateFrame f = false →
        t.outs = List.replicate 23 ⟨.none, none⟩ ++ [⟨.checksumInvalid, none⟩] ∧ t.meter = s.meter ∧
          t.sync.view = r.sync.view) ∧
      (f[1] ≠ Config.syncMarker → t.outs = List.replicate 24 ⟨.none, none⟩ ∧ t.meter = s.meter)
end

