-- ==== Sys2Proof/Laws/Decode.lean ====
section
/-! SUPPORT. Laws/Decode.lean: what the decoder reads from a command word and from 24 bytes. -/

namespace Sys2Proof

open Sys2Proof.Machine

/-- The two bytes of a command word stand for it (R86). -/
theorem portWord_commandBytes (op : BitVec 2) (data : Byte) :
    portWord (commandBytes op data) = .ok (.command (op ++ data)) := by
  have hlt : (op.setWidth 8).toNat < 4 := by
    rw [BitVec.toNat_setWidth]; have := op.isLt; omega
  have hx : (op.setWidth 8).extractLsb' 0 2 = op := by
    apply BitVec.eq_of_toNat_eq
    have := op.isLt
    simp [BitVec.extractLsb'_toNat, BitVec.toNat_setWidth]
    omega
  simp only [portWord, commandBytes, hlt, if_true, hx]

/-- A command word in its two bytes decodes by its op bits (R86, R101). -/
theorem decode_commandBytes (op : BitVec 2) (data : Byte) :
    decode (commandBytes op data) = .ok (decodeCommand (op ++ data)) := by
  rw [decode, portWord_commandBytes]
  rfl

@[simp] theorem opOf_append (op : BitVec 2) (data : Byte) : opOf (op ++ data) = op := by
  apply BitVec.eq_of_toNat_eq
  have h1 := op.isLt
  have h2 := data.isLt
  simp only [opOf, BitVec.extractLsb'_toNat, BitVec.toNat_append, Nat.shiftLeft_eq]
  rw [Nat.shiftRight_eq_div_pow, ← Nat.shiftLeft_eq, ← Nat.shiftLeft_add_eq_or_of_lt h2, Nat.shiftLeft_eq]
  omega

@[simp] theorem dataOf_append (op : BitVec 2) (data : Byte) : dataOf (op ++ data) = data := by
  apply BitVec.eq_of_toNat_eq
  have h2 := data.isLt
  simp only [dataOf, BitVec.extractLsb'_toNat, BitVec.toNat_append]
  rw [← Nat.shiftLeft_add_eq_or_of_lt h2, Nat.shiftLeft_eq, Nat.shiftRight_zero]
  omega

/-- The 24 bytes of a frame stand for it (R80). -/
theorem portWord_toList (f : Frame) : portWord f.toList = .ok (.frame f) := by
  have hlen : f.toList.length = 24 := by simp
  have hf : frameOfList f.toList hlen = f := by
    apply Vector.toArray_inj.1
    change f.toArray.toList.toArray = f.toArray
    exact Array.toArray_toList
  unfold portWord
  split
  · next lo hi h => rw [h] at hlen; simp at hlen
  · rw [dif_pos hlen, hf]

/-- Any 24 bytes decode as a frame (R96). -/
theorem decode_toList (f : Frame) : decode f.toList = .ok (.frame f) := by
  rw [decode, portWord_toList]
  rfl

end Sys2Proof
end

