-- ==== Sys2Proof/Laws/Memory.lean ====
section
/-! SUPPORT. Laws/Memory.lean: the laws of the frame buffer's store: what a read gives after each operation, the canonical form
each operation keeps, and that canonical stores with equal reads are equal. -/

namespace Sys2Proof.Machine

@[simp] theorem Memory.read_nil (a : Nat) : Memory.read [] a = Config.unwrittenByte := rfl

theorem Memory.read_cons (k : Nat) (v : Byte) (m : Memory) (a : Nat) :
    Memory.read ((k, v) :: m) a = if k = a then v else Memory.read m a := rfl

theorem Memory.read_erase (m : Memory) (a c : Nat) :
    (Memory.erase m a).read c = if c = a then Config.unwrittenByte else m.read c := by
  induction m with
  | nil => simp [Memory.erase]
  | cons e m ih =>
    obtain ⟨k, v⟩ := e
    by_cases hk : k = a
    · subst hk
      by_cases hc : c = k
      · simpa [Memory.erase, hc] using ih
      · simp [Memory.erase, ih, hc, Memory.read_cons, Ne.symm hc]
    · by_cases hc : c = a
      · subst hc
        simp [Memory.erase, hk, Memory.read_cons, ih]
      · simp [Memory.erase, hk, hc, Memory.read_cons, ih]

theorem Memory.read_insert (m : Memory) (a : Nat) (b : Byte) (c : Nat)
    (hm : ∀ e ∈ m, e.1 ≠ a) :
    (Memory.insert m a b).read c = if c = a then b else m.read c := by
  induction m with
  | nil => simp [Memory.insert, Memory.read_cons, eq_comm]
  | cons e m ih =>
    obtain ⟨k, v⟩ := e
    have hk : k ≠ a := hm (k, v) (by simp)
    have ih := ih fun e he => hm e (by simp [he])
    by_cases h : a < k
    · simp [Memory.insert, h, Memory.read_cons, eq_comm (a := a)]
    · by_cases hc : c = a
      · subst hc; simp [Memory.insert, h, Memory.read_cons, ih, hk]
      · simp [Memory.insert, h, Memory.read_cons, ih, hc]

theorem Memory.mem_erase {m : Memory} {a : Nat} {e : Host.Cell} (h : e ∈ Memory.erase m a) :
    e ∈ m ∧ e.1 ≠ a := by
  induction m with
  | nil => simp [Memory.erase] at h
  | cons x m ih =>
    obtain ⟨k, v⟩ := x
    by_cases hk : k = a
    · simp only [Memory.erase, hk, if_true] at h
      exact ⟨by simp [(ih h).1], (ih h).2⟩
    · simp only [Memory.erase, hk, if_false, List.mem_cons] at h
      rcases h with rfl | h
      · exact ⟨by simp, hk⟩
      · exact ⟨by simp [(ih h).1], (ih h).2⟩

/-- Read after write: the value written at the address written to, and every other address as before. -/
@[simp] theorem Memory.read_write (m : Memory) (a : Nat) (b : Byte) (c : Nat) :
    (m.write a b).read c = if c = a then b else m.read c := by
  unfold Memory.write
  split
  · next h => rw [Memory.read_erase, h]
  · rw [Memory.read_insert _ _ _ _ fun e he => (Memory.mem_erase he).2, Memory.read_erase]
    by_cases hc : c = a <;> simp [hc]

/-- What a block write leaves at every address. -/
theorem Memory.read_writeBlock (bs : List Byte) (m : Memory) (a c : Nat) :
    (m.writeBlock a bs).read c = if a ≤ c then bs.getD (c - a) (m.read c) else m.read c := by
  induction bs generalizing m a with
  | nil => simp [Memory.writeBlock]
  | cons b bs ih =>
    rw [Memory.writeBlock, ih, Memory.read_write]
    rcases Nat.lt_trichotomy c a with h | h | h
    · simp [show ¬ a + 1 ≤ c by omega, show ¬ a ≤ c by omega, show c ≠ a by omega]
    · subst h; simp
    · rw [if_pos (show a + 1 ≤ c by omega), if_pos (show a ≤ c by omega), if_neg (show c ≠ a by omega),
        show c - a = (c - (a + 1)) + 1 by omega, List.getD_cons_succ]

/-- The canonical form, spelt out. -/
theorem Memory.wf_iff (m : Memory) :
    m.wf = true ↔ (m.map Prod.fst).Pairwise (· < ·) ∧ ∀ e ∈ m, e.1 < 24 ∧ e.2 ≠ Config.unwrittenByte := by
  simp [Memory.wf, List.all_eq_true]

@[simp] theorem Memory.wf_nil : Memory.wf [] = true := rfl

theorem Memory.wf_cons {k : Nat} {v : Byte} {m : Memory} :
    Memory.wf ((k, v) :: m) = true ↔
      (∀ e ∈ m, k < e.1) ∧ k < 24 ∧ v ≠ Config.unwrittenByte ∧ m.wf = true := by
  simp only [Memory.wf_iff, List.map_cons, List.pairwise_cons, List.mem_cons, List.mem_map,
    forall_eq_or_imp]
  constructor
  · rintro ⟨⟨h1, h2⟩, ⟨h3, h4⟩, h5⟩
    exact ⟨fun e he => h1 _ ⟨e, he, rfl⟩, h3, h4, h2, h5⟩
  · rintro ⟨h1, h2, h3, h4, h5⟩
    exact ⟨⟨fun _ ⟨e, he, h⟩ => h ▸ h1 e he, h4⟩, ⟨h2, h3⟩, h5⟩

theorem Memory.wf_erase {m : Memory} (h : m.wf = true) (a : Nat) : (Memory.erase m a).wf = true := by
  induction m with
  | nil => rfl
  | cons e m ih =>
    obtain ⟨k, v⟩ := e
    obtain ⟨h1, h2, h3, h4⟩ := Memory.wf_cons.1 h
    by_cases hk : k = a
    · simpa [Memory.erase, hk] using ih h4
    · simp only [Memory.erase, hk, if_false]
      exact Memory.wf_cons.2 ⟨fun e he => h1 e (Memory.mem_erase he).1, h2, h3, ih h4⟩

theorem Memory.mem_insert {m : Memory} {a : Nat} {b : Byte} {e : Host.Cell} (h : e ∈ Memory.insert m a b) :
    e = (a, b) ∨ e ∈ m := by
  induction m with
  | nil => simpa [Memory.insert] using h
  | cons x m ih =>
    obtain ⟨k, v⟩ := x
    by_cases hk : a < k
    · simpa [Memory.insert, hk] using h
    · simp only [Memory.insert, hk, if_false, List.mem_cons] at h
      rcases h with h | h
      · simp [h]
      · rcases ih h with h | h <;> simp [h]

theorem Memory.wf_insert {m : Memory} (h : m.wf = true) {a : Nat} {b : Byte} (ha : a < 24)
    (hb : b ≠ Config.unwrittenByte) (hm : ∀ e ∈ m, e.1 ≠ a) : (Memory.insert m a b).wf = true := by
  induction m with
  | nil => exact Memory.wf_cons.2 ⟨by simp, ha, hb, rfl⟩
  | cons x m ih =>
    obtain ⟨k, v⟩ := x
    obtain ⟨h1, h2, h3, h4⟩ := Memory.wf_cons.1 h
    by_cases hk : a < k
    · simp only [Memory.insert, hk, if_true]
      refine Memory.wf_cons.2 ⟨?_, ha, hb, h⟩
      intro e he
      rcases List.mem_cons.1 he with rfl | he
      · exact hk
      · exact Nat.lt_trans hk (h1 e he)
    · simp only [Memory.insert, hk, if_false]
      have hka : k ≠ a := hm (k, v) (by simp)
      refine Memory.wf_cons.2 ⟨?_, h2, h3, ih h4 fun e he => hm e (by simp [he])⟩
      intro e he
      rcases Memory.mem_insert he with rfl | he
      · exact Nat.lt_of_le_of_ne (Nat.le_of_not_lt hk) hka
      · exact h1 e he

/-- A write inside the 24 offsets keeps the canonical form. -/
theorem Memory.wf_write {m : Memory} (h : m.wf = true) {a : Nat} (ha : a < 24) (b : Byte) :
    (m.write a b).wf = true := by
  unfold Memory.write
  split
  · exact Memory.wf_erase h a
  · next hb => exact Memory.wf_insert (Memory.wf_erase h a) ha hb fun e he => (Memory.mem_erase he).2

/-- A block write inside the 24 offsets keeps the canonical form. -/
theorem Memory.wf_writeBlock (bs : List Byte) {m : Memory} (h : m.wf = true) {a : Nat} (ha : a + bs.length ≤ 24) :
    (m.writeBlock a bs).wf = true := by
  induction bs generalizing m a with
  | nil => exact h
  | cons b bs ih =>
    simp only [List.length_cons] at ha
    exact ih (Memory.wf_write h (by omega) b) (by omega)

theorem Memory.read_of_not_mem {m : Memory} {a : Nat} (h : ∀ e ∈ m, e.1 ≠ a) : m.read a = Config.unwrittenByte := by
  induction m with
  | nil => rfl
  | cons e m ih =>
    obtain ⟨k, v⟩ := e
    rw [Memory.read_cons, if_neg (h (k, v) (by simp)), ih fun e he => h e (by simp [he])]

/-- Canonical stores with equal reads are equal. -/
theorem Memory.ext_of_wf {m n : Memory} (hm : m.wf = true) (hn : n.wf = true)
    (h : ∀ a, m.read a = n.read a) : m = n := by
  induction m generalizing n with
  | nil =>
    cases n with
    | nil => rfl
    | cons e n =>
      obtain ⟨k, v⟩ := e
      have := h k
      simp only [Memory.read_nil, Memory.read_cons, if_true] at this
      exact absurd this.symm (Memory.wf_cons.1 hn).2.2.1
  | cons e m ih =>
    obtain ⟨k, v⟩ := e
    obtain ⟨h1, _, h3, h4⟩ := Memory.wf_cons.1 hm
    have hv := h k
    rw [Memory.read_cons, if_pos rfl] at hv
    cases n with
    | nil => exact absurd hv h3
    | cons e n =>
      obtain ⟨l, w⟩ := e
      obtain ⟨g1, _, g3, g4⟩ := Memory.wf_cons.1 hn
      have hkl : k = l := by
        rcases Nat.lt_trichotomy k l with hlt | heq | hgt
        · rw [Memory.read_of_not_mem fun e he => ?_] at hv
          · exact absurd hv h3
          · rcases List.mem_cons.1 he with rfl | he
            · exact Nat.ne_of_gt hlt
            · exact Nat.ne_of_gt (Nat.lt_trans hlt (g1 e he))
        · exact heq
        · have hw := h l
          rw [Memory.read_cons (k := l), if_pos rfl, Memory.read_of_not_mem fun e he => ?_] at hw
          · exact absurd hw.symm g3
          · rcases List.mem_cons.1 he with rfl | he
            · exact Nat.ne_of_gt hgt
            · exact Nat.ne_of_gt (Nat.lt_trans hgt (h1 e he))
      subst hkl
      rw [Memory.read_cons, if_pos rfl] at hv
      subst hv
      congr 1
      refine ih h4 g4 fun a => ?_
      by_cases ha : k = a
      · subst ha
        rw [Memory.read_of_not_mem fun e he => Nat.ne_of_gt (h1 e he),
          Memory.read_of_not_mem fun e he => Nat.ne_of_gt (g1 e he)]
      · have := h a
        simpa only [Memory.read_cons, if_neg ha] using this

end Sys2Proof.Machine
end

