-- ==== Sys2Proof/Laws/State.lean ====
section
/-! SUPPORT. Laws/State.lean: one lemma per field per named update, each true by unfolding the update once, so that no later proof
unfolds a record update. -/

namespace Sys2Proof.Machine

/-! ### MemWrite -/

@[simp] theorem Sync.memWrite_mode (g : Sync) (o : Offset) (b : Byte) : (g.memWrite o b).mode = g.mode := rfl
@[simp] theorem Sync.memWrite_cnt (g : Sync) (o : Offset) (b : Byte) : (g.memWrite o b).cnt = g.cnt := rfl
@[simp] theorem Sync.memWrite_winValid (g : Sync) (o : Offset) (b : Byte) : (g.memWrite o b).winValid = g.winValid := rfl
@[simp] theorem Sync.memWrite_winPrev (g : Sync) (o : Offset) (b : Byte) : (g.memWrite o b).winPrev = g.winPrev := rfl
@[simp] theorem Sync.memWrite_fb (g : Sync) (o : Offset) (b : Byte) : (g.memWrite o b).fb = g.fb.write o.val b := rfl

/-! ### back to hunting -/

@[simp] theorem Sync.toHunt_mode (g : Sync) : (g.toHunt).mode = .hunt := rfl
@[simp] theorem Sync.toHunt_cnt (g : Sync) : (g.toHunt).cnt = 0 := rfl
@[simp] theorem Sync.toHunt_winValid (g : Sync) : (g.toHunt).winValid = false := rfl
@[simp] theorem Sync.toHunt_winPrev (g : Sync) : (g.toHunt).winPrev = g.winPrev := rfl
@[simp] theorem Sync.toHunt_fb (g : Sync) : (g.toHunt).fb = g.fb := rfl

/-! ### R113 -/

@[simp] theorem Sync.slide_mode (g : Sync) (b : Byte) : (g.slide b).mode = g.mode := rfl
@[simp] theorem Sync.slide_cnt (g : Sync) (b : Byte) : (g.slide b).cnt = g.cnt := rfl
@[simp] theorem Sync.slide_winValid (g : Sync) (b : Byte) : (g.slide b).winValid = true := rfl
@[simp] theorem Sync.slide_winPrev (g : Sync) (b : Byte) : (g.slide b).winPrev = b := rfl
@[simp] theorem Sync.slide_fb (g : Sync) (b : Byte) : (g.slide b).fb = g.fb := rfl

/-! ### R114 -/

@[simp] theorem Sync.anchor_mode (g : Sync) (b : Byte) : (g.anchor b).mode = .collect := rfl
@[simp] theorem Sync.anchor_cnt (g : Sync) (b : Byte) : (g.anchor b).cnt = 2 := rfl
@[simp] theorem Sync.anchor_winValid (g : Sync) (b : Byte) : (g.anchor b).winValid = false := rfl
@[simp] theorem Sync.anchor_winPrev (g : Sync) (b : Byte) : (g.anchor b).winPrev = g.winPrev := rfl
@[simp] theorem Sync.anchor_fb (g : Sync) (b : Byte) : (g.anchor b).fb = (g.fb.write 0 g.winPrev).write 1 b := rfl

/-! ### R116 -/

@[simp] theorem Sync.collect_mode (g : Sync) (b : Byte) (h : g.cnt.toNat < 23) : (g.collect b h).mode = g.mode := rfl
@[simp] theorem Sync.collect_cnt (g : Sync) (b : Byte) (h : g.cnt.toNat < 23) : (g.collect b h).cnt = g.cnt + 1 := rfl
@[simp] theorem Sync.collect_winValid (g : Sync) (b : Byte) (h : g.cnt.toNat < 23) : (g.collect b h).winValid = g.winValid := rfl
@[simp] theorem Sync.collect_winPrev (g : Sync) (b : Byte) (h : g.cnt.toNat < 23) : (g.collect b h).winPrev = g.winPrev := rfl
@[simp] theorem Sync.collect_fb (g : Sync) (b : Byte) (h : g.cnt.toNat < 23) : (g.collect b h).fb = g.fb.write g.cnt.toNat b := rfl

/-! ### what INIT and hardware reset clear -/

@[simp] theorem Meter.clear_inited (m : Meter) : (m.clear).inited = m.inited := rfl
@[simp] theorem Meter.clear_kv (m : Meter) : (m.clear).kv = m.kv := rfl
@[simp] theorem Meter.clear_ki (m : Meter) : (m.clear).ki = m.ki := rfl
@[simp] theorem Meter.clear_ovfCnt (m : Meter) : (m.clear).ovfCnt = 0 := rfl
@[simp] theorem Meter.clear_ovfSat (m : Meter) : (m.clear).ovfSat = false := rfl
@[simp] theorem Meter.clear_frameCnt (m : Meter) : (m.clear).frameCnt = 0 := rfl
@[simp] theorem Meter.clear_lastFrame (m : Meter) : (m.clear).lastFrame = m.lastFrame := rfl
@[simp] theorem Meter.clear_lastFrameValid (m : Meter) : (m.clear).lastFrameValid = false := rfl
@[simp] theorem Meter.clear_lastV (m : Meter) : (m.clear).lastV = m.lastV := rfl
@[simp] theorem Meter.clear_lastVValid (m : Meter) : (m.clear).lastVValid = false := rfl
@[simp] theorem Meter.clear_lastI (m : Meter) : (m.clear).lastI = m.lastI := rfl
@[simp] theorem Meter.clear_lastIValid (m : Meter) : (m.clear).lastIValid = false := rfl
@[simp] theorem Meter.clear_lastP (m : Meter) : (m.clear).lastP = m.lastP := rfl
@[simp] theorem Meter.clear_lastPValid (m : Meter) : (m.clear).lastPValid = false := rfl
@[simp] theorem Meter.clear_lastS (m : Meter) : (m.clear).lastS = m.lastS := rfl
@[simp] theorem Meter.clear_lastSValid (m : Meter) : (m.clear).lastSValid = false := rfl
@[simp] theorem Meter.clear_lastPf (m : Meter) : (m.clear).lastPf = m.lastPf := rfl
@[simp] theorem Meter.clear_lastPfValid (m : Meter) : (m.clear).lastPfValid = false := rfl
@[simp] theorem Meter.clear_lastCum (m : Meter) : (m.clear).lastCum = 0 := rfl

/-! ### INIT -/

@[simp] theorem Meter.initialise_inited (m : Meter) (kv ki : BitVec Config.kW) : (m.initialise kv ki).inited = true := rfl
@[simp] theorem Meter.initialise_kv (m : Meter) (kv ki : BitVec Config.kW) : (m.initialise kv ki).kv = kv := rfl
@[simp] theorem Meter.initialise_ki (m : Meter) (kv ki : BitVec Config.kW) : (m.initialise kv ki).ki = ki := rfl
@[simp] theorem Meter.initialise_ovfCnt (m : Meter) (kv ki : BitVec Config.kW) : (m.initialise kv ki).ovfCnt = 0 := rfl
@[simp] theorem Meter.initialise_ovfSat (m : Meter) (kv ki : BitVec Config.kW) : (m.initialise kv ki).ovfSat = false := rfl
@[simp] theorem Meter.initialise_frameCnt (m : Meter) (kv ki : BitVec Config.kW) : (m.initialise kv ki).frameCnt = 0 := rfl
@[simp] theorem Meter.initialise_lastFrame (m : Meter) (kv ki : BitVec Config.kW) : (m.initialise kv ki).lastFrame = m.lastFrame := rfl
@[simp] theorem Meter.initialise_lastFrameValid (m : Meter) (kv ki : BitVec Config.kW) : (m.initialise kv ki).lastFrameValid = false := rfl
@[simp] theorem Meter.initialise_lastV (m : Meter) (kv ki : BitVec Config.kW) : (m.initialise kv ki).lastV = m.lastV := rfl
@[simp] theorem Meter.initialise_lastVValid (m : Meter) (kv ki : BitVec Config.kW) : (m.initialise kv ki).lastVValid = false := rfl
@[simp] theorem Meter.initialise_lastI (m : Meter) (kv ki : BitVec Config.kW) : (m.initialise kv ki).lastI = m.lastI := rfl
@[simp] theorem Meter.initialise_lastIValid (m : Meter) (kv ki : BitVec Config.kW) : (m.initialise kv ki).lastIValid = false := rfl
@[simp] theorem Meter.initialise_lastP (m : Meter) (kv ki : BitVec Config.kW) : (m.initialise kv ki).lastP = m.lastP := rfl
@[simp] theorem Meter.initialise_lastPValid (m : Meter) (kv ki : BitVec Config.kW) : (m.initialise kv ki).lastPValid = false := rfl
@[simp] theorem Meter.initialise_lastS (m : Meter) (kv ki : BitVec Config.kW) : (m.initialise kv ki).lastS = m.lastS := rfl
@[simp] theorem Meter.initialise_lastSValid (m : Meter) (kv ki : BitVec Config.kW) : (m.initialise kv ki).lastSValid = false := rfl
@[simp] theorem Meter.initialise_lastPf (m : Meter) (kv ki : BitVec Config.kW) : (m.initialise kv ki).lastPf = m.lastPf := rfl
@[simp] theorem Meter.initialise_lastPfValid (m : Meter) (kv ki : BitVec Config.kW) : (m.initialise kv ki).lastPfValid = false := rfl
@[simp] theorem Meter.initialise_lastCum (m : Meter) (kv ki : BitVec Config.kW) : (m.initialise kv ki).lastCum = 0 := rfl

/-! ### R194 -/

@[simp] theorem Meter.record_inited (m : Meter) (f : Frame) (r : Reading) : (m.record f r).inited = m.inited := rfl
@[simp] theorem Meter.record_kv (m : Meter) (f : Frame) (r : Reading) : (m.record f r).kv = m.kv := rfl
@[simp] theorem Meter.record_ki (m : Meter) (f : Frame) (r : Reading) : (m.record f r).ki = m.ki := rfl
@[simp] theorem Meter.record_ovfCnt (m : Meter) (f : Frame) (r : Reading) : (m.record f r).ovfCnt = m.ovfCnt := rfl
@[simp] theorem Meter.record_ovfSat (m : Meter) (f : Frame) (r : Reading) : (m.record f r).ovfSat = m.ovfSat := rfl
@[simp] theorem Meter.record_frameCnt (m : Meter) (f : Frame) (r : Reading) : (m.record f r).frameCnt = if m.frameCnt = BitVec.allOnes Config.frameCntW then m.frameCnt else m.frameCnt + 1 := rfl
@[simp] theorem Meter.record_lastFrame (m : Meter) (f : Frame) (r : Reading) : (m.record f r).lastFrame = f := rfl
@[simp] theorem Meter.record_lastFrameValid (m : Meter) (f : Frame) (r : Reading) : (m.record f r).lastFrameValid = true := rfl
@[simp] theorem Meter.record_lastV (m : Meter) (f : Frame) (r : Reading) : (m.record f r).lastV = m.lastV := rfl
@[simp] theorem Meter.record_lastVValid (m : Meter) (f : Frame) (r : Reading) : (m.record f r).lastVValid = m.lastVValid := rfl
@[simp] theorem Meter.record_lastI (m : Meter) (f : Frame) (r : Reading) : (m.record f r).lastI = m.lastI := rfl
@[simp] theorem Meter.record_lastIValid (m : Meter) (f : Frame) (r : Reading) : (m.record f r).lastIValid = m.lastIValid := rfl
@[simp] theorem Meter.record_lastP (m : Meter) (f : Frame) (r : Reading) : (m.record f r).lastP = m.lastP := rfl
@[simp] theorem Meter.record_lastPValid (m : Meter) (f : Frame) (r : Reading) : (m.record f r).lastPValid = m.lastPValid := rfl
@[simp] theorem Meter.record_lastS (m : Meter) (f : Frame) (r : Reading) : (m.record f r).lastS = m.lastS := rfl
@[simp] theorem Meter.record_lastSValid (m : Meter) (f : Frame) (r : Reading) : (m.record f r).lastSValid = m.lastSValid := rfl
@[simp] theorem Meter.record_lastPf (m : Meter) (f : Frame) (r : Reading) : (m.record f r).lastPf = m.lastPf := rfl
@[simp] theorem Meter.record_lastPfValid (m : Meter) (f : Frame) (r : Reading) : (m.record f r).lastPfValid = m.lastPfValid := rfl
@[simp] theorem Meter.record_lastCum (m : Meter) (f : Frame) (r : Reading) : (m.record f r).lastCum = r.cumulativePulses := rfl

/-! ### R193 -/

@[simp] theorem Meter.hold_inited (m : Meter) (r : Reading) : (m.hold r).inited = m.inited := rfl
@[simp] theorem Meter.hold_kv (m : Meter) (r : Reading) : (m.hold r).kv = m.kv := rfl
@[simp] theorem Meter.hold_ki (m : Meter) (r : Reading) : (m.hold r).ki = m.ki := rfl
@[simp] theorem Meter.hold_ovfCnt (m : Meter) (r : Reading) : (m.hold r).ovfCnt = m.ovfCnt := rfl
@[simp] theorem Meter.hold_ovfSat (m : Meter) (r : Reading) : (m.hold r).ovfSat = m.ovfSat := rfl
@[simp] theorem Meter.hold_frameCnt (m : Meter) (r : Reading) : (m.hold r).frameCnt = m.frameCnt := rfl
@[simp] theorem Meter.hold_lastFrame (m : Meter) (r : Reading) : (m.hold r).lastFrame = m.lastFrame := rfl
@[simp] theorem Meter.hold_lastFrameValid (m : Meter) (r : Reading) : (m.hold r).lastFrameValid = m.lastFrameValid := rfl
@[simp] theorem Meter.hold_lastV (m : Meter) (r : Reading) : (m.hold r).lastV = r.voltage.getD m.lastV := rfl
@[simp] theorem Meter.hold_lastVValid (m : Meter) (r : Reading) : (m.hold r).lastVValid = (m.lastVValid || r.voltage.isSome) := rfl
@[simp] theorem Meter.hold_lastI (m : Meter) (r : Reading) : (m.hold r).lastI = r.current.getD m.lastI := rfl
@[simp] theorem Meter.hold_lastIValid (m : Meter) (r : Reading) : (m.hold r).lastIValid = (m.lastIValid || r.current.isSome) := rfl
@[simp] theorem Meter.hold_lastP (m : Meter) (r : Reading) : (m.hold r).lastP = r.activePower.getD m.lastP := rfl
@[simp] theorem Meter.hold_lastPValid (m : Meter) (r : Reading) : (m.hold r).lastPValid = (m.lastPValid || r.activePower.isSome) := rfl
@[simp] theorem Meter.hold_lastS (m : Meter) (r : Reading) : (m.hold r).lastS = r.apparentPower.getD m.lastS := rfl
@[simp] theorem Meter.hold_lastSValid (m : Meter) (r : Reading) : (m.hold r).lastSValid = (m.lastSValid || r.apparentPower.isSome) := rfl
@[simp] theorem Meter.hold_lastPf (m : Meter) (r : Reading) : (m.hold r).lastPf = r.powerFactor.getD m.lastPf := rfl
@[simp] theorem Meter.hold_lastPfValid (m : Meter) (r : Reading) : (m.hold r).lastPfValid = (m.lastPfValid || r.powerFactor.isSome) := rfl
@[simp] theorem Meter.hold_lastCum (m : Meter) (r : Reading) : (m.hold r).lastCum = m.lastCum := rfl

/-! ### the end of a command -/

@[simp] theorem State.endCommand_sync (s : State) (c : OutcomeCode) (r : Option Reading) : (s.endCommand c r).sync = s.sync := rfl
@[simp] theorem State.endCommand_meter (s : State) (c : OutcomeCode) (r : Option Reading) : (s.endCommand c r).meter = s.meter := rfl
@[simp] theorem State.endCommand_outs (s : State) (c : OutcomeCode) (r : Option Reading) : (s.endCommand c r).outs = [{ code := c, reading := r }] := rfl
@[simp] theorem State.endCommand_stage (s : State) (c : OutcomeCode) (r : Option Reading) : (s.endCommand c r).stage = .empty := rfl
@[simp] theorem State.endCommand_env (s : State) (c : OutcomeCode) (r : Option Reading) : (s.endCommand c r).env = s.env := rfl

/-! ### a stage function run on its own -/

@[simp] theorem State.returning_sync (s : State) (r : StageResult) : (s.returning r).sync = s.sync := rfl
@[simp] theorem State.returning_meter (s : State) (r : StageResult) : (s.returning r).meter = s.meter := rfl
@[simp] theorem State.returning_outs (s : State) (r : StageResult) : (s.returning r).outs = s.outs := rfl
@[simp] theorem State.returning_stage (s : State) (r : StageResult) : (s.returning r).stage = r := rfl
@[simp] theorem State.returning_env (s : State) (r : StageResult) : (s.returning r).env = s.env := rfl

/-! ### CONVERT -/

@[simp] theorem State.convert_sync (s : State) (d : DecodedFields) : (s.convert d).sync = s.sync := rfl
@[simp] theorem State.convert_meter (s : State) (d : DecodedFields) : (s.convert d).meter = s.meter.countOverflow d.ovf := rfl
@[simp] theorem State.convert_outs (s : State) (d : DecodedFields) : (s.convert d).outs = s.outs := rfl
@[simp] theorem State.convert_stage (s : State) (d : DecodedFields) : (s.convert d).stage = s.stage := rfl
@[simp] theorem State.convert_env (s : State) (d : DecodedFields) : (s.convert d).env = s.env := rfl

/-! ### ACCEPT -/

@[simp] theorem State.acceptFrame_sync (s : State) (f : Frame) : (s.acceptFrame f).sync = s.sync := rfl
@[simp] theorem State.acceptFrame_meter (s : State) (f : Frame) : (s.acceptFrame f).meter = ((s.meter.countOverflow (decodeFields f).ovf).record f (s.readingOfFrame f)).hold (s.readingOfFrame f) := rfl
@[simp] theorem State.acceptFrame_outs (s : State) (f : Frame) : (s.acceptFrame f).outs = [{ code := (s.readingOfFrame f).code, reading := some (s.readingOfFrame f) }] := rfl
@[simp] theorem State.acceptFrame_stage (s : State) (f : Frame) : (s.acceptFrame f).stage = s.stage := rfl
@[simp] theorem State.acceptFrame_env (s : State) (f : Frame) : (s.acceptFrame f).env = s.env := rfl

/-! ### hardware reset -/

@[simp] theorem State.hardwareReset_sync (s : State) : (s.hardwareReset).sync = s.sync.toHunt := rfl
@[simp] theorem State.hardwareReset_meter (s : State) : (s.hardwareReset).meter = { s.meter.clear with inited := false } := rfl
@[simp] theorem State.hardwareReset_outs (s : State) : (s.hardwareReset).outs = [] := rfl
@[simp] theorem State.hardwareReset_stage (s : State) : (s.hardwareReset).stage = .empty := rfl
@[simp] theorem State.hardwareReset_env (s : State) : (s.hardwareReset).env = s.env := rfl

/-! ### the port -/

@[simp] theorem State.presented_sync (s : State) : (s.presented).sync = s.sync := rfl
@[simp] theorem State.presented_meter (s : State) : (s.presented).meter = s.meter := rfl
@[simp] theorem State.presented_outs (s : State) : (s.presented).outs = s.outs := rfl
@[simp] theorem State.presented_stage (s : State) : (s.presented).stage = s.stage := rfl
@[simp] theorem State.presented_env (s : State) : (s.presented).env = { s.env with input := s.env.input.tail, cfgKv := s.fetch.cfgKv, cfgKi := s.fetch.cfgKi } := rfl

end Sys2Proof.Machine
end

