-- ==== Sys2Proof/Laws/Ops.lean ====
section
/-! SUPPORT. Laws/Ops.lean: for each shared operation, once, what it can do; later proofs cite these instead of unfolding. -/

namespace Sys2Proof.Machine

/-! ### Frames -/

theorem byteAt_eq (f : Frame) (o : Offset) : byteAt f o = f[o.val] := rfl

theorem byteAt_toList (f : Frame) (o : Offset) : f.toList[o.val]? = some (byteAt f o) := by
  simp [byteAt_eq]

@[simp] theorem frame_byteAt (g : Sync) (o : Offset) : byteAt g.frame o = g.fb.read o.val := by
  simp [byteAt_eq, Sync.frame]

@[simp] theorem frame_getElem (g : Sync) (k : Nat) (h : k < 24) : g.frame[k] = g.fb.read k := by
  simp [Sync.frame]

/-! ### The overflow counter (R188, R189) -/

/-- The three cases of the overflow counter. -/
theorem countOverflow_cases (m : Meter) (ovf : Bool) :
    (ovf = false ∧ m.countOverflow ovf = m) ∨
    (ovf = true ∧ m.ovfCnt = BitVec.allOnes Config.ovfW ∧ m.countOverflow ovf = { m with ovfSat := true }) ∨
    (ovf = true ∧ m.ovfCnt ≠ BitVec.allOnes Config.ovfW ∧
      m.countOverflow ovf = { m with ovfCnt := m.ovfCnt + 1 }) := by
  cases ovf with
  | false => exact .inl ⟨rfl, rfl⟩
  | true =>
    by_cases h : m.ovfCnt = BitVec.allOnes Config.ovfW
    · exact .inr (.inl ⟨rfl, h, by simp only [Meter.countOverflow, if_true, if_pos h]⟩)
    · exact .inr (.inr ⟨rfl, h, by simp only [Meter.countOverflow, if_true, if_neg h]⟩)

/-- CONVERT writes OVF_CNT and OVF_SAT only (R174). -/
theorem countOverflow_frame (m : Meter) (ovf : Bool) :
    m.countOverflow ovf =
      { m with ovfCnt := (m.countOverflow ovf).ovfCnt, ovfSat := (m.countOverflow ovf).ovfSat } := by
  rcases countOverflow_cases m ovf with ⟨_, h⟩ | ⟨_, _, h⟩ | ⟨_, _, h⟩ <;> rw [h]

@[simp] theorem countOverflow_inited (m : Meter) (o : Bool) : (m.countOverflow o).inited = m.inited := by
  rw [countOverflow_frame]

@[simp] theorem countOverflow_kv (m : Meter) (o : Bool) : (m.countOverflow o).kv = m.kv := by
  rw [countOverflow_frame]

@[simp] theorem countOverflow_ki (m : Meter) (o : Bool) : (m.countOverflow o).ki = m.ki := by
  rw [countOverflow_frame]

@[simp] theorem countOverflow_frameCnt (m : Meter) (o : Bool) : (m.countOverflow o).frameCnt = m.frameCnt := by
  rw [countOverflow_frame]

/-! ### REANCHOR (R118) -/

/-- A marker found is the least one at offset 2 or above. -/
theorem firstMarker_some {f : Frame} {j : Nat} (h : firstMarker f = some j) :
    ∃ hj : j < 24, 2 ≤ j ∧ f[j] = Config.syncMarker ∧
      ∀ (k : Nat) (hk : k < j), 2 ≤ k → f[k] ≠ Config.syncMarker := by
  simp only [firstMarker, Option.map_eq_some_iff, List.findIdx?_eq_some_iff_getElem] at h
  obtain ⟨i, ⟨hi, hm, hl⟩, rfl⟩ := h
  simp only [List.length_drop, Vector.length_toList] at hi
  refine ⟨by omega, by omega, by simpa [Nat.add_comm 2 i] using hm, fun k hk hk2 => ?_⟩
  have := hl (k - 2) (by omega)
  simpa [show 2 + (k - 2) = k by omega] using this

/-- No marker found: none stands at offset 2 or above. -/
theorem firstMarker_none {f : Frame} (h : firstMarker f = none) (j : Nat) (hj : j < 24) (h2 : 2 ≤ j) :
    f[j] ≠ Config.syncMarker := by
  simp only [firstMarker, Option.map_eq_none_iff, List.findIdx?_eq_none_iff] at h
  intro hm
  have hmem : f[j] ∈ f.toList.drop 2 := by
    rw [List.mem_iff_getElem]
    exact ⟨j - 2, by simp; omega, by simp [show 2 + (j - 2) = j by omega]⟩
  simpa [hm] using h _ hmem

/-- A least marker is the one found. -/
theorem firstMarker_eq_some {f : Frame} {j : Nat} (hj : j < 24) (h2 : 2 ≤ j) (hm : f[j] = Config.syncMarker)
    (hl : ∀ (k : Nat) (hk : k < j), 2 ≤ k → f[k] ≠ Config.syncMarker) : firstMarker f = some j := by
  cases h : firstMarker f with
  | none => exact absurd hm (firstMarker_none h j hj h2)
  | some i =>
    obtain ⟨hi, hi2, him, hil⟩ := firstMarker_some h
    rcases Nat.lt_trichotomy i j with hlt | heq | hgt
    · exact absurd him (hl i hlt hi2)
    · rw [heq]
    · exact absurd hm (hil j hgt h2)

/-- REANCHOR with a marker at least offset j. -/
theorem reanchor_some {f : Frame} {j : Nat} (h : firstMarker f = some j) (g : Sync) :
    g.reanchor f =
      { g with
        fb := g.fb.writeBlock 0 (f.toList.drop (j - 1)), cnt := BitVec.ofNat 5 (25 - j),
        mode := .collect, winValid := false } := by
  simp only [Sync.reanchor, h]

/-- REANCHOR without a marker. -/
theorem reanchor_none {f : Frame} (h : firstMarker f = none) (g : Sync) :
    g.reanchor f = { g with mode := .hunt, cnt := 0, winPrev := byteAt f 23, winValid := true } := by
  simp only [Sync.reanchor, h]

/-- What FB reads after REANCHOR with a marker at j: the frame from offset j - 1 on, then as before. -/
theorem read_reanchor_some {f : Frame} {j : Nat} (h : firstMarker f = some j) (g : Sync) (a : Nat) :
    (g.reanchor f).fb.read a =
      if ha : j - 1 + a < 24 then f[j - 1 + a] else g.fb.read a := by
  rw [reanchor_some h, Memory.read_writeBlock, if_pos (Nat.zero_le a)]
  by_cases ha : j - 1 + a < 24
  · simp [List.getD_eq_getElem?_getD, ha]
  · simp [List.getD_eq_getElem?_getD, ha]

/-! ### RXBYTE (R112) -/

/-- Everything RXBYTE can do: the five arms of R112, and the fault where no offset is left. -/
theorem receive_cases (s : State) (b : Byte) :
    (s.meter.inited = false ∧ s.receive b = .next (s.endCommand .none)) ∨
    (s.meter.inited = true ∧ s.sync.mode = .hunt ∧ s.sync.anchors b = true ∧
      s.receive b = .next ({ s with sync := s.sync.anchor b }.endCommand .none)) ∨
    (s.meter.inited = true ∧ s.sync.mode = .hunt ∧ s.sync.anchors b = false ∧
      s.receive b = .next ({ s with sync := s.sync.slide b }.endCommand .none)) ∨
    (s.meter.inited = true ∧ s.sync.mode = .collect ∧
      ∃ h : s.sync.cnt.toNat < 23,
        s.receive b = .next ({ s with sync := s.sync.collect b h }.endCommand .none)) ∨
    (s.meter.inited = true ∧ s.sync.mode = .collect ∧ s.sync.cnt = 23 ∧ s.receive b = .next (s.complete b)) ∨
    (s.meter.inited = true ∧ s.sync.mode = .collect ∧ 23 < s.sync.cnt.toNat ∧
      s.receive b = .fault (.noSuchOffset s.sync.cnt.toNat)) := by
  unfold State.receive
  cases hi : s.meter.inited with
  | false => simp
  | true =>
    cases hm : s.sync.mode with
    | hunt => cases ha : s.sync.anchors b <;> simp
    | collect =>
      by_cases h : s.sync.cnt.toNat < 23
      · simp [h]
      · by_cases h23 : s.sync.cnt = 23
        · simp [h23]
        · have : s.sync.cnt.toNat ≠ 23 := fun e => h23 (BitVec.eq_of_toNat_eq (by simpa using e))
          exact .inr (.inr (.inr (.inr (.inr ⟨rfl, rfl, by omega, by
            simp only [Bool.not_true, Bool.false_eq_true, if_false, dif_neg h, if_neg h23]⟩))))

/-- The candidate RXBYTE b completes: FB[0..22] and b. -/
def State.candidate (s : State) (b : Byte) : Frame := (s.sync.memWrite 23 b).frame

theorem candidate_getElem (s : State) (b : Byte) (k : Nat) (h : k < 24) :
    (s.candidate b)[k] = if k = 23 then b else s.sync.fb.read k := by
  simp [State.candidate]

/-- A completed candidate that validates (R117, R120). -/
theorem complete_accept {s : State} {b : Byte} (h : validateFrame (s.candidate b) = true) :
    s.complete b =
      { ({ s with sync := s.sync.memWrite 23 b } : State).acceptFrame (s.candidate b) with
        sync := (s.sync.memWrite 23 b).toHunt, stage := .empty } := by
  simp only [State.complete, State.candidate] at h ⊢
  rw [if_pos h]
  rfl

/-- A completed candidate that does not (R117, R214). -/
theorem complete_reject {s : State} {b : Byte} (h : validateFrame (s.candidate b) = false) :
    s.complete b =
      ({ s with sync := (s.sync.memWrite 23 b).reanchor (s.candidate b) } : State).endCommand .checksumInvalid := by
  simp only [State.complete, State.candidate] at h ⊢
  rw [if_neg (by simp [h])]

/-- The candidate is the frame whose bytes are FB[0..22] and b. -/
theorem candidate_eq {s : State} {b : Byte} {f : Frame}
    (hf : ∀ (k : Nat) (h : k < 24), f[k] = if k = 23 then b else s.sync.fb.read k) : s.candidate b = f := by
  apply Vector.ext
  intro k hk
  rw [candidate_getElem, hf]

/-- RXBYTE before INIT (R112, first arm). -/
theorem receive_uninit {s : State} (b : Byte) (hi : s.meter.inited = false) :
    s.receive b = .next (s.endCommand .none) := by
  simp only [State.receive, hi, Bool.not_false, if_true]

/-- RXBYTE in HUNT with an anchor (R114). -/
theorem receive_anchor {s : State} {b : Byte} (hi : s.meter.inited = true) (hm : s.sync.mode = .hunt)
    (ha : s.sync.anchors b = true) :
    s.receive b = .next (({ s with sync := s.sync.anchor b } : State).endCommand .none) := by
  simp only [State.receive, hi, hm, ha, Bool.not_true, Bool.false_eq_true, if_false, if_true]

/-- RXBYTE in HUNT without one (R113). -/
theorem receive_slide {s : State} {b : Byte} (hi : s.meter.inited = true) (hm : s.sync.mode = .hunt)
    (ha : s.sync.anchors b = false) :
    s.receive b = .next (({ s with sync := s.sync.slide b } : State).endCommand .none) := by
  simp only [State.receive, hi, hm, ha, Bool.not_true, Bool.false_eq_true, if_false]

/-- RXBYTE in COLLECT below the last offset (R116). -/
theorem receive_collect {s : State} {b : Byte} (hi : s.meter.inited = true) (hm : s.sync.mode = .collect)
    (hc : s.sync.cnt.toNat < 23) :
    s.receive b = .next (({ s with sync := s.sync.collect b hc } : State).endCommand .none) := by
  simp only [State.receive, hi, hm, Bool.not_true, Bool.false_eq_true, if_false, dif_pos hc]

/-- RXBYTE at the last offset (R117). -/
theorem receive_complete {s : State} (b : Byte) (hi : s.meter.inited = true) (hm : s.sync.mode = .collect)
    (hc : s.sync.cnt = 23) : s.receive b = .next (s.complete b) := by
  have h : ¬ s.sync.cnt.toNat < 23 := by rw [hc]; decide
  simp only [State.receive, hi, hm, Bool.not_true, Bool.false_eq_true, if_false, dif_neg h, if_pos hc]

theorem complete_accept_meter {s : State} {b : Byte} (h : validateFrame (s.candidate b) = true) :
    (s.complete b).meter =
      (({ s with sync := s.sync.memWrite 23 b } : State).acceptFrame (s.candidate b)).meter := by
  rw [complete_accept h]

theorem complete_accept_sync {s : State} {b : Byte} (h : validateFrame (s.candidate b) = true) :
    (s.complete b).sync = (s.sync.memWrite 23 b).toHunt := by
  rw [complete_accept h]

theorem complete_accept_outs {s : State} {b : Byte} (h : validateFrame (s.candidate b) = true) :
    (s.complete b).outs =
      [{ code := (s.readingOfFrame (s.candidate b)).code, reading := some (s.readingOfFrame (s.candidate b)) }] := by
  rw [complete_accept h, State.acceptFrame_outs]
  rfl

theorem complete_reject_meter {s : State} {b : Byte} (h : validateFrame (s.candidate b) = false) :
    (s.complete b).meter = s.meter := by
  rw [complete_reject h, State.endCommand_meter]

theorem complete_reject_sync {s : State} {b : Byte} (h : validateFrame (s.candidate b) = false) :
    (s.complete b).sync = (s.sync.memWrite 23 b).reanchor (s.candidate b) := by
  rw [complete_reject h, State.endCommand_sync]

theorem complete_reject_outs {s : State} {b : Byte} (h : validateFrame (s.candidate b) = false) :
    (s.complete b).outs = [{ code := .checksumInvalid, reading := none }] := by
  rw [complete_reject h, State.endCommand_outs]

@[simp] theorem complete_env (s : State) (b : Byte) : (s.complete b).env = s.env := by
  cases h : validateFrame (s.candidate b) with
  | true => rw [complete_accept h, State.acceptFrame_env]
  | false => rw [complete_reject h, State.endCommand_env]

@[simp] theorem complete_stage (s : State) (b : Byte) : (s.complete b).stage = .empty := by
  cases h : validateFrame (s.candidate b) with
  | true => rw [complete_accept h]
  | false => rw [complete_reject h, State.endCommand_stage]

/-- RXBYTE leaves the environment alone. -/
theorem receive_env {s t : State} {b : Byte} (h : s.receive b = .next t) : t.env = s.env := by
  rcases receive_cases s b with ⟨_, e⟩ | ⟨_, _, _, e⟩ | ⟨_, _, _, e⟩ | ⟨_, _, _, e⟩ | ⟨_, _, _, e⟩ | ⟨_, _, _, e⟩ <;>
    rw [e] at h
  · obtain rfl := Host.Outcome.next.inj h; rfl
  · obtain rfl := Host.Outcome.next.inj h; rfl
  · obtain rfl := Host.Outcome.next.inj h; rfl
  · obtain rfl := Host.Outcome.next.inj h; rfl
  · obtain rfl := Host.Outcome.next.inj h; exact complete_env s b
  · cases h

/-- FRAME_CNT after an accepted frame, as a natural number (R194). -/
theorem record_frameCnt_toNat (m : Meter) (f : Frame) (r : Reading) :
    (m.record f r).frameCnt.toNat = min (m.frameCnt.toNat + 1) 0xFFFFFFFF := by
  rw [Meter.record_frameCnt]
  split
  · next h => rw [h]; simp
  · next h =>
    have h' : m.frameCnt.toNat ≠ 0xFFFFFFFF := fun e => h (BitVec.eq_of_toNat_eq (by simpa using e))
    have := m.frameCnt.isLt
    simp only [Config.frameCntW] at this
    rw [BitVec.toNat_add, show (1 : BitVec Config.frameCntW).toNat = 1 from rfl]
    simp only [Config.frameCntW]
    omega

/-! ### STREAM (R100) -/

@[simp] theorem stream_nil (s : State) : s.stream [] = .next { s with outs := [], stage := .empty } := rfl

theorem stream_cons_next {s s₁ : State} {b : Byte} (bs : List Byte) (h : s.receive b = .next s₁) {t : State}
    (ht : s₁.stream bs = .next t) : s.stream (b :: bs) = .next { t with outs := s₁.outs ++ t.outs } := by
  simp only [State.stream, h, ht]

theorem stream_cons_inv {s t : State} {b : Byte} {bs : List Byte} (h : s.stream (b :: bs) = .next t) :
    ∃ s₁ t₁, s.receive b = .next s₁ ∧ s₁.stream bs = .next t₁ ∧ t = { t₁ with outs := s₁.outs ++ t₁.outs } := by
  simp only [State.stream] at h
  cases h₁ : s.receive b with
  | next s₁ =>
    cases h₂ : s₁.stream bs with
    | next t₁ =>
      simp only [h₁, h₂, Host.Outcome.next.injEq] at h
      exact ⟨s₁, t₁, rfl, h₂, h.symm⟩
    | fault r => simp [h₁, h₂] at h
    | refused r => simp [h₁, h₂] at h
  | fault r => simp [h₁] at h
  | refused r => simp [h₁] at h

/-- STREAM leaves the environment alone. -/
theorem stream_env {bs : List Byte} {s t : State} (h : s.stream bs = .next t) : t.env = s.env := by
  induction bs generalizing s t with
  | nil => obtain rfl := Host.Outcome.next.inj h; rfl
  | cons b bs ih =>
    obtain ⟨s₁, t₁, h₁, h₂, rfl⟩ := stream_cons_inv h
    exact (ih h₂).trans (receive_env h₁)

/-! ### The arms of exec -/

@[simp] theorem exec_idle (s : State) : exec .idle s = .next (s.endCommand .none) := rfl
@[simp] theorem exec_rxbyte (b : Byte) (s : State) : exec (.rxbyte b) s = s.receive b := rfl
@[simp] theorem exec_flush (s : State) : exec .flush s =
    .next (({ s with sync := if s.meter.inited then s.sync.toHunt else s.sync } : State).endCommand .none) := rfl
@[simp] theorem exec_validate (f : Frame) (s : State) :
    exec (.validate f) s = .next (s.returning (.verdict (validateFrame f))) := rfl
@[simp] theorem exec_reanchor (f : Frame) (s : State) :
    exec (.reanchor f) s = .next { s with sync := s.sync.reanchor f } := rfl
@[simp] theorem exec_accept (f : Frame) (s : State) : exec (.accept f) s = .next (s.acceptFrame f) := rfl
@[simp] theorem exec_decode (f : Frame) (s : State) :
    exec (.decode f) s = .next (s.returning (.fields (decodeFields f))) := rfl
@[simp] theorem exec_convert (d : DecodedFields) (s : State) :
    exec (.convert d) s =
      .next ((s.convert d).returning (.reading (readingOf s.env.oorStatuses d s.meter))) := rfl
@[simp] theorem exec_frame (f : Frame) (s : State) : exec (.frame f) s = s.stream f.toList := rfl

/-- INIT, with both constants nonzero or not (R171, R244). -/
theorem exec_init_cases (s : State) :
    ((s.env.cfgKv = 0 ∨ s.env.cfgKi = 0) ∧ exec .init s = .refused .zeroCalibration) ∨
    (s.env.cfgKv ≠ 0 ∧ s.env.cfgKi ≠ 0 ∧
      exec .init s = .next (({ s with
        sync := s.sync.toHunt
        meter := s.meter.initialise s.env.cfgKv s.env.cfgKi } : State).endCommand .none)) := by
  by_cases h : s.env.cfgKv = 0 ∨ s.env.cfgKi = 0
  · exact .inl ⟨h, by simp only [exec, execInit, if_pos h]⟩
  · exact .inr ⟨fun e => h (.inl e), fun e => h (.inr e), by simp only [exec, execInit, if_neg h]⟩

/-- What a step can do: hardware reset, or the instruction on the port. -/
theorem step_cases (s : State) :
    (s.fetch.rst = true ∧ step s = .next s.presented.hardwareReset) ∨
    (s.fetch.rst = false ∧ step s = exec (decodeWord s.fetch.word) s.presented) := by
  unfold step
  cases hr : s.fetch.rst <;> simp

/-- Presenting a word and taking it leaves the state as it was. -/
@[simp] theorem presented_present (s : State) (word : PortWord) : (s.present word).presented = s := rfl

/-- A step at a state with a word presented runs it. -/
theorem step_present (s : State) (word : PortWord) : step (s.present word) = exec (decodeWord word) s := by
  have hf : (s.present word).fetch = ⟨false, word, s.env.cfgKv, s.env.cfgKi⟩ := rfl
  rw [step, presented_present, hf]
  simp only [Bool.false_eq_true, if_false]

/-- Bytes that stand for a word present it. -/
theorem presentBytes_ok (s : State) {bytes : List Byte} {word : PortWord} (h : portWord bytes = .ok word) :
    s.presentBytes bytes = s.present word := by
  simp only [State.presentBytes, h]

end Sys2Proof.Machine
end

