-- ==== Sys2Proof/Laws/Fields.lean ====
section
/-! SUPPORT. Laws/Fields.lean: what reading a frame gives, as natural numbers: the checksum sum, the big-endian fields, the
bits of UpdateFlags. -/

namespace Sys2Proof.Machine

/-- Offsets 2 to 22 as a list. -/
theorem payload_eq_ofFn (f : Frame) :
    (f.toList.drop 2).take 21 = List.ofFn fun k : Fin 21 => f[k.val + 2] := by
  apply List.ext_getElem
  · simp
  · intro i h₁ h₂
    rw [List.getElem_ofFn]
    simp [Nat.add_comm]

/-- The sum of R85 as a sum over 21 offsets. -/
theorem payloadSum_eq (f : Frame) : payloadSum f = ∑ k : Fin 21, f[k.val + 2].toNat := by
  change (((f.toList.drop 2).take 21).map BitVec.toNat).sum = _
  rw [payload_eq_ofFn, List.map_ofFn, List.sum_ofFn]
  rfl

/-- VALIDATE as an equation of natural numbers (R141). -/
theorem validateFrame_iff (f : Frame) : validateFrame f = true ↔ payloadSum f % 256 = f[23].toNat := by
  change (BitVec.ofNat 8 (payloadSum f) == f[23]) = true ↔ _
  rw [beq_iff_eq, ← BitVec.toNat_inj, BitVec.toNat_ofNat]

/-- BE24 (R91). -/
theorem be24_toNat (f : Frame) (o : Nat) (h : o + 2 < 24) :
    (be24 f o h).toNat = f[o].toNat * 65536 + f[o + 1].toNat * 256 + f[o + 2].toNat := by
  simp only [be24, byteAt_eq, BitVec.toNat_append]
  rw [← Nat.shiftLeft_add_eq_or_of_lt f[o + 2].isLt, ← Nat.shiftLeft_add_eq_or_of_lt f[o + 1].isLt]
  simp only [Nat.shiftLeft_eq]
  omega

/-- BE16 (R92). -/
theorem be16_toNat (f : Frame) (o : Nat) (h : o + 1 < 24) :
    (be16 f o h).toNat = f[o].toNat * 256 + f[o + 1].toNat := by
  simp only [be16, byteAt_eq, BitVec.toNat_append]
  rw [← Nat.shiftLeft_add_eq_or_of_lt f[o + 1].isLt]
  simp only [Nat.shiftLeft_eq]

/-- BIT_A as a mask (R84). -/
theorem voltageReady_eq : ∀ b : Byte, voltageReady b = !decide (b &&& 0x40 = 0) := by decide

/-- BIT_B as a mask (R84). -/
theorem currentReady_eq : ∀ b : Byte, currentReady b = !decide (b &&& 0x20 = 0) := by decide

/-- BIT_C as a mask (R84). -/
theorem powerReady_eq : ∀ b : Byte, powerReady b = !decide (b &&& 0x10 = 0) := by decide

/-- BIT_D as a mask (R84). -/
theorem overflowEvent_eq : ∀ b : Byte, overflowEvent b = !decide (b &&& 0x80 = 0) := by decide

/-! ### The guarded quotients (R176 to R185) -/

/-- The guarded ratio of R176 and R178, as a natural number that fits its width. -/
theorem scaled_some (d : BitVec 24) {par : BitVec 24} (k : BitVec Config.kW) (hp : par ≠ 0) :
    ∃ v : BitVec 56, scaled 56 (some d) par (some k) = some v ∧ v.toNat = d.toNat * k.toNat / par.toNat := by
  refine ⟨BitVec.ofNat 56 (d.toNat * k.toNat / par.toNat), by simp only [scaled, if_neg hp], ?_⟩
  rw [BitVec.toNat_ofNat, Nat.mod_eq_of_lt]
  calc d.toNat * k.toNat / par.toNat ≤ d.toNat * k.toNat := Nat.div_le_self _ _
    _ < 2 ^ 24 * 2 ^ 32 := Nat.mul_lt_mul'' d.isLt k.isLt
    _ = 2 ^ 56 := by norm_num

end Sys2Proof.Machine
end

