-- ==== Sys2Proof/Laws/PerInstr.lean ====
section
/-! SUPPORT. Laws/PerInstr.lean: a family of statements about every instruction as syntax: the length of its encoding. -/

namespace Sys2Proof.Laws.EncodedLength

/-- An instruction that has words has two bytes of them, or the 24 of a frame (R86, R98). -/
def Statement (i : Instr) : Prop := ∀ bs, encode i = some bs → bs.length = 2 ∨ bs.length = 24

theorem idle : Statement .idle := by rintro _ ⟨⟩; exact .inl rfl
theorem rxbyte (b : Byte) : Statement (.rxbyte b) := by rintro _ ⟨⟩; exact .inl rfl
theorem flush : Statement .flush := by rintro _ ⟨⟩; exact .inl rfl
theorem init : Statement .init := by rintro _ ⟨⟩; exact .inl rfl
theorem validate (f : Frame) : Statement (.validate f) := by rintro _ ⟨⟩; exact .inl rfl
theorem reanchor (f : Frame) : Statement (.reanchor f) := by rintro _ ⟨⟩; exact .inl rfl
theorem accept (f : Frame) : Statement (.accept f) := by rintro _ ⟨⟩; exact .inl rfl
theorem decode (f : Frame) : Statement (.decode f) := by rintro _ ⟨⟩; exact .inl rfl
theorem convert (d : DecodedFields) : Statement (.convert d) := by rintro _ ⟨⟩
theorem frame (f : Frame) : Statement (.frame f) := by rintro _ ⟨⟩; exact .inr (by simp)

end Sys2Proof.Laws.EncodedLength
end

