-- ==== Sys2Proof/Laws/Scan.lean ====
section
/-! SUPPORT. Laws/Scan.lean: what the Synchronizer holds after a prefix of a stream of which no frame has been accepted, and what
one more byte does to it (40_synchronizer.md R113 to R118). Position q of the stream is a live anchor when it holds the marker, has a
byte before it, and its candidate is not complete yet. -/

namespace Sys2Proof.Machine

/-- Position q of the prefix P is a live anchor: q >= 1, its 24-byte candidate is not complete in P, and it holds the marker. -/
def LiveAnchor (P : List Byte) (q : Nat) : Prop :=
  1 ≤ q ∧ P.length ≤ q + 22 ∧ P[q]? = some Config.syncMarker

/-- Group S after the prefix P: hunting behind its last byte when there is no live anchor, and collecting from the byte before
the least live anchor when there is one. -/
def Tracks (P : List Byte) (g : Sync) : Prop :=
  (g.mode = .hunt ∧ (g.winValid = true ↔ P ≠ []) ∧ (∀ b, P.getLast? = some b → g.winPrev = b) ∧
      ∀ q, ¬ LiveAnchor P q) ∨
    ∃ q, LiveAnchor P q ∧ (∀ p, p < q → ¬ LiveAnchor P p) ∧ g.mode = .collect ∧ g.winValid = false ∧
      g.cnt.toNat = P.length - q + 1 ∧ ∀ i, i < P.length - q + 1 → P[q - 1 + i]? = some (g.fb.read i)

theorem LiveAnchor.lt {P : List Byte} {q : Nat} (h : LiveAnchor P q) : q < P.length :=
  (List.getElem?_eq_some_iff.1 h.2.2).1

/-- A hunting block with an empty window has seen nothing. -/
theorem tracks_nil {g : Sync} (hm : g.mode = .hunt) (hw : g.winValid = false) : Tracks [] g :=
  .inl ⟨hm, by simp [hw], by simp, fun _ h => absurd h.lt (by simp)⟩

/-- A live anchor of a longer prefix is an old one or the last byte. -/
theorem LiveAnchor.of_append {P : List Byte} {b : Byte} {q : Nat} (h : LiveAnchor (P ++ [b]) q) :
    LiveAnchor P q ∨ q = P.length ∧ b = Config.syncMarker := by
  obtain ⟨h1, h2, h3⟩ := h
  simp only [List.length_append, List.length_singleton] at h2
  by_cases hq : q < P.length
  · rw [List.getElem?_append_left hq] at h3
    exact .inl ⟨h1, by omega, h3⟩
  · rw [List.getElem?_append_right (by omega)] at h3
    obtain ⟨hl, hb⟩ := List.getElem?_eq_some_iff.1 h3
    simp only [List.length_singleton] at hl
    exact .inr ⟨by omega, by simpa using hb⟩

/-- What one more byte does: nothing is accepted and the new prefix is tracked, a rejected candidate reported if one was completed; or the
candidate of the least live anchor is completed and validates. -/
theorem tracks_receive {P : List Byte} {s : State} (b : Byte) (hi : s.meter.inited = true) (h : Tracks P s.sync) :
    (∃ t, s.receive b = .next t ∧ Tracks (P ++ [b]) t.sync ∧ t.meter = s.meter ∧
      (t.outs = [{ code := .none, reading := none }] ∨
        t.outs = [{ code := .checksumInvalid, reading := none }] ∧
          ∃ q, LiveAnchor P q ∧ P.length = q + 22)) ∨
    ∃ q, LiveAnchor P q ∧ P.length = q + 22 ∧ s.sync.mode = .collect ∧ s.sync.cnt = 23 ∧
      (s.candidate b).toList = (P ++ [b]).drop (q - 1) ∧ validateFrame (s.candidate b) = true ∧
      s.receive b = .next (s.complete b) := by
  rcases h with ⟨hm, hw, hp, hno⟩ | ⟨q, hq, hleast, hm, hw, hc, hheld⟩
  · by_cases ha : s.sync.anchors b = true
    · left
      refine ⟨_, receive_anchor hi hm ha, .inr ⟨P.length, ?_, ?_, rfl, rfl, ?_, ?_⟩, rfl, .inl rfl⟩
      all_goals
        simp only [Sync.anchors, Bool.and_eq_true, beq_iff_eq] at ha
        obtain ⟨hv, rfl⟩ := ha
        have hne := hw.1 hv
        have hpos : 0 < P.length := List.length_pos_iff.2 hne
      · exact ⟨hpos, by simp, by simp⟩
      · intro p hpq hl
        rcases hl.of_append with h | ⟨h, _⟩
        · exact hno p h
        · omega
      · simp
      · intro i hi2
        simp only [List.length_append, List.length_singleton] at hi2
        simp only [State.endCommand_sync, Sync.anchor_fb, Memory.read_write]
        have : i = 0 ∨ i = 1 := by omega
        rcases this with rfl | rfl
        · rw [List.getElem?_append_left (by omega), Nat.add_zero, ← List.getLast?_eq_getElem?]
          have hl := List.getLast?_eq_some_getLast hne
          rw [hl]
          simp [hp _ hl]
        · rw [show P.length - 1 + 1 = P.length by omega]
          simp
    · left
      simp only [Bool.not_eq_true] at ha
      refine ⟨_, receive_slide hi hm ha, .inl ⟨hm, by simp, by simp, ?_⟩, rfl, .inl rfl⟩
      intro q hl
      rcases hl.of_append with h | ⟨rfl, rfl⟩
      · exact hno q h
      · have hne : P ≠ [] := List.length_pos_iff.1 hl.1
        simp [Sync.anchors, hw.2 hne] at ha
  · have hlt := hq.lt
    obtain ⟨hq1, hq2, hq3⟩ := hq
    by_cases h23 : s.sync.cnt.toNat < 23
    · left
      refine ⟨_, receive_collect hi hm h23, .inr ⟨q, ?_, ?_, hm, hw, ?_, ?_⟩, rfl, .inl rfl⟩
      · exact ⟨hq1, by simp; omega, by rw [List.getElem?_append_left hlt]; exact hq3⟩
      · intro p hpq hl
        rcases hl.of_append with h | ⟨h, _⟩
        · exact hleast p hpq h
        · omega
      · simp only [State.endCommand_sync, Sync.collect_cnt, BitVec.toNat_add, List.length_append, List.length_singleton]
        rw [show (1 : BitVec 5).toNat = 1 from rfl]
        omega
      · intro i hi2
        simp only [List.length_append, List.length_singleton] at hi2
        simp only [State.endCommand_sync, Sync.collect_fb, Memory.read_write]
        by_cases hic : i = s.sync.cnt.toNat
        · rw [if_pos hic, hic, show q - 1 + s.sync.cnt.toNat = P.length by omega]
          simp
        · rw [if_neg hic, List.getElem?_append_left (by omega)]
          exact hheld i (by omega)
    · have hlen : P.length = q + 22 := by omega
      have hc23 : s.sync.cnt = 23 := BitVec.eq_of_toNat_eq (by
        rw [hc, hlen, show (23 : BitVec 5).toNat = 23 from rfl]; omega)
      have hcand : (s.candidate b).toList = (P ++ [b]).drop (q - 1) := by
        apply List.ext_getElem?
        intro k
        rw [List.getElem?_drop]
        by_cases hk : k < 24
        · rw [List.getElem?_eq_getElem (by simpa using hk), Vector.getElem_toList, candidate_getElem]
          by_cases hk23 : k = 23
          · rw [if_pos hk23, hk23, show q - 1 + 23 = P.length by omega]
            simp
          · rw [if_neg hk23, List.getElem?_append_left (by omega)]
            exact (hheld k (by omega)).symm
        · rw [List.getElem?_eq_none (by simp; omega), List.getElem?_eq_none (by simp; omega)]
      have hcq (k : Nat) (hk : k < 24) : (P ++ [b])[q - 1 + k]? = some (s.candidate b)[k] := by
        rw [← List.getElem?_drop, ← hcand, List.getElem?_eq_getElem (by simpa using hk), Vector.getElem_toList]
      cases hv : validateFrame (s.candidate b) with
      | true => exact .inr ⟨q, ⟨hq1, hq2, hq3⟩, hlen, hm, hc23, hcand, rfl, receive_complete b hi hm hc23⟩
      | false =>
        refine .inl ⟨_, receive_complete b hi hm hc23, ?_, complete_reject_meter hv,
          .inr ⟨complete_reject_outs hv, q, ⟨hq1, hq2, hq3⟩, hlen⟩⟩
        rw [complete_reject_sync hv]
        have hlive (p : Nat) (hl : LiveAnchor (P ++ [b]) p) :
            ∃ hk : p - (q - 1) < 24, 2 ≤ p - (q - 1) ∧ (s.candidate b)[p - (q - 1)] = Config.syncMarker := by
          have hpl := hl.lt
          obtain ⟨l1, l2, l3⟩ := hl
          simp only [List.length_append, List.length_singleton] at l2 hpl
          refine ⟨by omega, by omega, ?_⟩
          have := hcq (p - (q - 1)) (by omega)
          rw [show q - 1 + (p - (q - 1)) = p by omega, l3] at this
          exact (Option.some.inj this).symm
        cases hF : firstMarker (s.candidate b) with
        | none =>
          rw [reanchor_none hF]
          refine .inl ⟨rfl, by simp, ?_, ?_⟩
          · intro c hlast
            have h23b : (s.candidate b)[23] = b := by rw [candidate_getElem, if_pos rfl]
            simp only [List.getLast?_concat, Option.some.injEq] at hlast
            rw [byteAt_eq, ← hlast]
            exact h23b
          · intro p hl
            obtain ⟨hk, h2, hmk⟩ := hlive p hl
            exact firstMarker_none hF _ hk h2 hmk
        | some j =>
          obtain ⟨hj, hj2, hjm, hjl⟩ := firstMarker_some hF
          refine .inr ⟨q - 1 + j, ⟨by omega, by simp; omega, ?_⟩, ?_, ?_, ?_, ?_, ?_⟩
          · rw [hcq j hj, hjm]
          · intro p hpj hl
            obtain ⟨hk, h2, hmk⟩ := hlive p hl
            exact hjl _ (by omega) h2 hmk
          · rw [reanchor_some hF]
          · rw [reanchor_some hF]
          · rw [reanchor_some hF, BitVec.toNat_ofNat]
            simp only [List.length_append, List.length_singleton]
            omega
          · intro i hi2
            simp only [List.length_append, List.length_singleton] at hi2
            rw [read_reanchor_some hF, dif_pos (by omega), show q - 1 + j - 1 + i = q - 1 + (j - 1 + i) by omega]
            exact hcq _ _

end Sys2Proof.Machine
end

