-- ==== Sys2Proof/Tests/Slice0.lean ====
section
/-! SUPPORT. Tests/Slice0.lean: the smoke test of WellFormed, every constructor's decoding, one or two small tests per instruction
with their expected results taken from 95_test_vectors.md, and for every obligation that has hypotheses one witness that meets them. -/

namespace Sys2Proof.Tests

open Sys2Proof.Machine

/-! ### Helpers -/

/-- The frame of the source's example, F1 of the vectors (95_test_vectors.md S1). -/
def f1 : Frame := #v[0x00, 0x5A, 0x00, 0x00, 0x64, 0x00, 0x00, 0x32, 0x00, 0x00, 0x64, 0x00,
  0x00, 0x0A, 0x00, 0x00, 0x64, 0x00, 0x00, 0x05, 0x70, 0x00, 0x01, 0xDE]

/-- A frame with Status s, marker, and zeros: its checksum is 0 (Y8). -/
def zeros (status : Byte) : Frame := (Vector.replicate 24 0).set 0 status |>.set 1 0x5A

/-- The registers of group M after INIT with the given constants and nothing accepted (I2). -/
def meterOn (kv ki : BitVec 32) : Meter := { Meter.reset with inited := true, kv, ki }

/-- The start state of the vectors: hardware reset, then INIT with both constants 1.0. -/
def ready : State := { State.reset with meter := meterOn 0x10000 0x10000 }

/-- `ready` in the middle of a candidate whose held bytes are those of f. -/
def collecting (f : Frame) (cnt : BitVec 5) : State :=
  { ready with sync := { mode := .collect, cnt, winValid := false, winPrev := 0
                         fb := Memory.writeBlock [] 0 (f.toList.take cnt.toNat) } }

/-- `ready` hunting with the byte b in the window. -/
def seen (b : Byte) : State := { ready with sync := { Sync.reset with winPrev := b, winValid := true } }

/-- `ready` with one item on the port. -/
def offered (rst : Bool) (word : PortWord) : State :=
  { ready with env := { ready.env with input := [⟨rst, word, 0x20000, 0x8000⟩] } }

/-- The next state of an instruction, or the state itself where it stops. -/
def after (i : Instr) (s : State) : State :=
  match exec i s with
  | .next t => t
  | .fault _ => s
  | .refused _ => s

/-- Whether an instruction completes. -/
def completes (i : Instr) (s : State) : Bool :=
  match exec i s with
  | .next _ => true
  | .fault _ => false
  | .refused _ => false

theorem exec_after {i : Instr} {s : State} (h : completes i s = true) : exec i s = .next (after i s) := by
  unfold completes at h
  unfold after
  split at h <;> simp_all

/-! ### WellFormed: an ill-formed term for each check is refused -/

theorem test_wf_reanchor_needs_sync : (Instr.reanchor (Vector.replicate 24 1)).wf = false := by decide

theorem test_wf_reanchor_needs_bad_sum : (Instr.reanchor f1).wf = false := by decide

theorem test_wf_accept_needs_sync : (Instr.accept (f1.set 1 0)).wf = false := by decide

theorem test_wf_accept_needs_sum : (Instr.accept (f1.set 23 0xDF)).wf = false := by decide

/-- A ready voltage register against an UpdateFlags byte of 0x30, and the like for the other three components. -/
theorem test_wf_convert_needs_ready_bits :
    (Instr.convert { decodeFields f1 with flags := 0x30 }).wf = false ∧
      (Instr.convert { decodeFields f1 with ireg := none }).wf = false ∧
      (Instr.convert { decodeFields f1 with preg := none }).wf = false ∧
      (Instr.convert { decodeFields f1 with ovf := true }).wf = false := by decide

/-! ### Decoding: words written out from 30_encoding.md R86 to R90 and R80 -/

/-- IDLE, `00xxxxxxxx` (R87). -/
theorem test_decode_idle :
    decodeTableWord 16 0b0000000000 = some .idle ∧ decodeTableWord 16 0b0011111111 = some .idle := by decide

/-- RXBYTE, `01dddddddd` (R88): 0x15A, 0x1DE, 0x101. -/
theorem test_decode_rxbyte :
    decodeTableWord 16 0b0101011010 = some (.rxbyte 0x5A) ∧ decodeTableWord 16 0b0111011110 = some (.rxbyte 0xDE) ∧
      decodeTableWord 16 0b0100000001 = some (.rxbyte 0x01) := by decide

/-- FLUSH, `10xxxxxxxx` (R89). -/
theorem test_decode_flush :
    decodeTableWord 16 0b1000000000 = some .flush ∧ decodeTableWord 16 0b1010101010 = some .flush := by decide

/-- INIT, `11xxxxxxxx` (R90). -/
theorem test_decode_init :
    decodeTableWord 16 0b1100000000 = some .init ∧ decodeTableWord 16 0b1111111111 = some .init := by decide

/-- FRAME, 24 bytes, offset 0 in bits 191:184 (R80). -/
theorem test_decode_frame :
    decodeTableWord 192 0x005A00006400003200006400000A000064000005700001DE = some (.frame f1) := by decide

/-- A stage function carries the word of the RXBYTE that completed its frame (R101): 0x1DE for F1. -/
theorem test_encode_stage :
    encode (.validate f1) = some [0xDE, 0x01] ∧ encode (.accept f1) = some [0xDE, 0x01] ∧
      encode (.decode f1) = some [0xDE, 0x01] ∧ encode (.reanchor (f1.set 23 0xDF)) = some [0xDF, 0x01] ∧
      encode (.convert (decodeFields f1)) = none ∧ decode [0xDE, 0x01] = .ok (.rxbyte 0xDE) := by
  refine ⟨by decide, by decide, by decide, by decide, by decide, rfl⟩

theorem test_decode_bad_length :
    (decode [] = .error (.badLength 0)) ∧ decode [0x5A, 0x01, 0x00] = .error (.badLength 3) := ⟨rfl, rfl⟩

theorem test_decode_beyond_command_word : decode [0x00, 0x04] = .error .beyondCommandWord := rfl

/-- No 24-byte string is illegal (R96): a wrong Sync, a wrong Checksum. -/
theorem test_decode_any_frame :
    decodeTableWord 192 0x000000006400003200006400000A000064000005700001DE = some (.frame (f1.set 1 0)) ∧
      decodeTableWord 192 0x005A00006400003200006400000A000064000005700001DF = some (.frame (f1.set 23 0xDF)) := by
  decide

/-! ### One step of each instruction: expected values from 95_test_vectors.md -/

/-- IDLE in a partial candidate keeps it (I5, R111). -/
theorem test_idle_keeps_candidate :
    (after .idle (collecting f1 12)).sync = (collecting f1 12).sync ∧
      (after .idle (collecting f1 12)).outs = [⟨.none, none⟩] := by decide

/-- Y3, byte #1: 5A behind 11 anchors, FB = 11 5A, CNT 2. -/
theorem test_rxbyte_anchors :
    (after (.rxbyte 0x5A) (seen 0x11)).sync.view = ⟨.collect, 2, none, [0x11, 0x5A]⟩ := by decide

/-- Y1, byte #23: READING (0x8000, 0x1999, 0x0CCC, 0x0CCC, 0x10000, 0x1). -/
theorem test_rxbyte_completes :
    (after (.rxbyte 0xDE) (collecting f1 23)).outs =
      [⟨.reading, some ⟨some 0x8000, some 0x1999, some 0x0CCC, some 0x0CCC, some 0x10000, 0x1⟩⟩] := by decide

/-- I4: FLUSH keeps group M and goes back to hunting. -/
theorem test_flush_keeps_meter :
    (after .flush { collecting f1 12 with meter := { meterOn 1 1 with ovfCnt := 7, ovfSat := true, frameCnt := 99 } }).meter =
        { meterOn 1 1 with ovfCnt := 7, ovfSat := true, frameCnt := 99 } ∧
      (after .flush (collecting f1 12)).sync.view = ⟨.hunt, 0, none, []⟩ := by decide

/-- I3: INIT kv=0x00020000 ki=0x00008000 starts over. -/
theorem test_init_starts_over :
    (after .init
        { collecting f1 12 with
          meter := { meterOn 1 1 with ovfCnt := 7, ovfSat := true, frameCnt := 99, lastVValid := true }
          env := { ready.env with cfgKv := 0x20000, cfgKi := 0x8000 } }).meter = meterOn 0x20000 0x8000 := by decide

/-- I2, and R244: a zero constant is refused. -/
theorem test_init_after_reset :
    (after .init State.reset).meter = meterOn 0x10000 0x10000 ∧
      completes .init { ready with env := { ready.env with cfgKi := 0 } } = false := by decide

/-- A1 to A4. -/
theorem test_validate_sums :
    (after (.validate (Vector.replicate 24 0)) ready).stage = .verdict true ∧
      (after (.validate (((Vector.replicate 24 0xFF).set 0 0).set 1 0x5A |>.set 23 0xEB)) ready).stage = .verdict true ∧
      (after (.validate (((Vector.replicate 24 0xFF).set 0 0).set 1 0x5A |>.set 23 0xEA)) ready).stage = .verdict false ∧
      (after (.validate f1) ready).stage = .verdict true := by decide

/-- A5 to A9: a single change, two that cancel, the Status, the Sync, the stored checksum. -/
theorem test_validate_laws :
    (after (.validate (f1.set 4 0x65)) ready).stage = .verdict false ∧
      (after (.validate ((f1.set 4 0x65).set 7 0x31)) ready).stage = .verdict true ∧
      (after (.validate (f1.set 0 0xF2)) ready).stage = .verdict true ∧
      (after (.validate (f1.set 1 0)) ready).stage = .verdict true ∧
      (after (.validate (f1.set 23 0xDF)) ready).stage = .verdict false := by decide

/-- Y7: marker at offset 2, FB = 5A 5A and 21 zeros, CNT 23. -/
theorem test_reanchor_first :
    (after (.reanchor ((zeros 0x00).set 2 0x5A)) ready).sync.view =
      ⟨.collect, 23, none, 0x5A :: 0x5A :: List.replicate 21 0⟩ := by decide

/-- Y9: marker at offset 23, FB = 00 5A, CNT 2; and Y4: no marker. -/
theorem test_reanchor_last_and_none :
    (after (.reanchor ((zeros 0x00).set 23 0x5A)) ready).sync.view = ⟨.collect, 2, none, [0x00, 0x5A]⟩ ∧
      (after (.reanchor (((Vector.replicate 24 1).set 0 0xAA).set 1 0x5A)) ready).sync.view =
        ⟨.hunt, 0, some 0x01, []⟩ := by decide

/-- C1: the registers ACCEPT writes. -/
theorem test_accept_registers :
    (after (.accept f1) ready).meter =
      { meterOn 0x10000 0x10000 with
        frameCnt := 1, lastFrame := f1, lastFrameValid := true, lastV := 0x8000, lastVValid := true
        lastI := 0x1999, lastIValid := true, lastP := 0x0CCC, lastPValid := true, lastS := 0x0CCC
        lastSValid := true, lastPf := 0x10000, lastPfValid := true, lastCum := 1 } := by decide

/-- C2: voltage bit clear; INCOMPLETE, and LAST_V is kept (R40). -/
theorem test_accept_incomplete :
    (after (.accept ((f1.set 20 0x30).set 23 0x9E))
        { ready with meter := { meterOn 0x10000 0x10000 with lastV := 0x1234, lastVValid := true } }).outs =
        [⟨.incomplete, some ⟨none, some 0x1999, some 0x0CCC, none, none, 0x1⟩⟩] ∧
      (after (.accept ((f1.set 20 0x30).set 23 0x9E))
        { ready with meter := { meterOn 0x10000 0x10000 with lastV := 0x1234, lastVValid := true } }).meter.lastV = 0x1234 := by
  decide

/-- B13. -/
theorem test_decode_fields :
    (after (.decode #v[0x55, 0x5A, 0x02, 0xD0, 0xF0, 0x00, 0x0C, 0x6A, 0x00, 0x3D, 0x3B, 0x00,
        0x16, 0xC4, 0x4F, 0x8E, 0x78, 0x00, 0xA3, 0xF2, 0x71, 0x01, 0x02, 0xE8]) ready).stage =
      .fields ⟨0x55, 184560, some 3178, 15675, some 5828, 5213816, some 41970, 0x71, false, 258⟩ := by decide

/-- B6 to B12: the ready bits and the overflow bit of UpdateFlags 0x40, 0x20, 0x10, 0x80, 0x0F. -/
theorem test_decode_ready_bits :
    [0x40, 0x20, 0x10, 0x80, 0x0F].map (fun b : Byte =>
        let d := decodeFields (f1.set 20 b)
        (d.vreg.isSome, d.ireg.isSome, d.preg.isSome, d.ovf)) =
      [(true, false, false, false), (false, true, false, false), (false, false, true, false),
        (false, false, false, true), (false, false, false, false)] := by decide

/-- C14, the largest operands. -/
theorem test_convert_largest :
    (after (.convert ⟨0, 1, some 0xFFFFFF, 1, some 0xFFFFFF, 1, some 0xFFFFFF, 0x70, false, 0xFFFF⟩)
        { ready with meter := meterOn 0xFFFFFFFF 0xFFFFFFFF }).stage =
      .reading ⟨some 0xFFFFFEFF000001, some 0xFFFFFEFF000001, some 0xFFFFFEFE00000200FF,
        some 0xFFFFFDFE00010400FFFDFE00, some 0x0, 0xFFFF⟩ := by decide

/-- C7 (POWER_OOR) and C12, C13 (the last increment, then saturation). -/
theorem test_convert_corners :
    (after (.convert { decodeFields f1 with status := 0xF2 }) ready).stage =
        .reading ⟨some 0x8000, some 0x1999, some 0, some 0x0CCC, some 0, 0x1⟩ ∧
      [0xFFFE, 0xFFFF].map (fun c : BitVec 16 =>
          let m := (after (.convert ⟨0, 100, none, 100, none, 100, none, 0x80, true, 0xFFFF⟩)
            { ready with meter := { meterOn 1 1 with ovfCnt := c } }).meter
          (m.ovfCnt, m.ovfSat)) = [(0xFFFF, false), (0xFFFF, true)] := by decide

/-- Y1 as one FRAME: 23 NONE, then READING; HUNT, CNT 0, WIN_VALID 0, FRAME_CNT 1. And Y14: before any INIT it changes nothing. -/
theorem test_frame_accepted :
    (after (.frame f1) ready).outs =
        List.replicate 23 ⟨.none, none⟩ ++
          [⟨.reading, some ⟨some 0x8000, some 0x1999, some 0x0CCC, some 0x0CCC, some 0x10000, 0x1⟩⟩] ∧
      (after (.frame f1) ready).sync.view = ⟨.hunt, 0, none, []⟩ ∧
      (after (.frame f1) ready).meter.frameCnt = 1 ∧
      (after (.frame f1) State.reset).meter = Meter.reset ∧ (after (.frame f1) State.reset).sync = Sync.reset := by decide

/-! ### Witnesses: for each obligation with hypotheses, a concrete state and operands that meet all of them together -/

/-- DecodeOfEncode: a well-formed term of every constructor. -/
theorem witness_DecodeOfEncode :
    ∀ i ∈ [Instr.idle, .rxbyte 0xFF, .flush, .init, .validate f1, .reanchor (f1.set 23 0), .accept f1, .decode f1,
      .convert (decodeFields f1), .frame f1], i.wf = true := by decide

/-- EncodeOfDecode: one byte string for each disjunct, the ignored data bits set in the third. -/
theorem witness_EncodeOfDecode :
    decode [0x5A, 0x01] = .ok (.rxbyte 0x5A) ∧ decode f1.toList = .ok (.frame f1) ∧
      decode [0xFF, 0x02] = .ok .flush := ⟨rfl, decode_toList f1, rfl⟩

/-- StepRunsDecoded: each of the clauses. -/
theorem witness_StepRunsDecoded :
    ((offered false (.command 0x15A)).env.input = [⟨false, .command 0x15A, 0x20000, 0x8000⟩] ∧
        portWord [0x5A, 0x01] = .ok (.command 0x15A) ∧ decode [0x5A, 0x01] = .ok (.rxbyte 0x5A)) ∧
      State.reset.env.input = [] ∧
      (offered true (.command 0)).env.input = [⟨true, .command 0, 0x20000, 0x8000⟩] := ⟨⟨rfl, rfl, rfl⟩, rfl, rfl⟩

theorem witness_InstructionsLeaveEnvironment : ∃ t, exec (.frame f1) ready = .next t :=
  ⟨_, exec_after (by decide)⟩

theorem witness_IdleChangesNothing : ∀ c ∈ [Instr.init, .idle, .rxbyte 1, .idle, .flush], commandOnly c = true := by
  decide

theorem witness_IgnoredBeforeInit :
    State.reset.meter.inited = false ∧ State.reset.sync.mode = .hunt ∧ State.reset.sync.cnt = 0 ∧
      State.reset.sync.winValid = false ∧
      ∀ c ∈ [Instr.idle, .flush, .rxbyte 0x5A], c = .idle ∨ c = .flush ∨ ∃ b, c = .rxbyte b := by
  refine ⟨rfl, rfl, rfl, rfl, fun c hc => ?_⟩
  simp only [List.mem_cons, List.not_mem_nil, or_false] at hc
  rcases hc with rfl | rfl | rfl
  · exact .inl rfl
  · exact .inr (.inl rfl)
  · exact .inr (.inr ⟨_, rfl⟩)

/-- RxbyteHuntsOn: the marker as first byte (Y5), and another byte behind one. -/
theorem witness_RxbyteHuntsOn :
    (ready.meter.inited = true ∧ ready.sync.mode = .hunt ∧
        (ready.sync.winValid = false ∨ (0x5A : Byte) ≠ Config.syncMarker)) ∧
      (seen 0x11).meter.inited = true ∧ (seen 0x11).sync.mode = .hunt ∧
        ((seen 0x11).sync.winValid = false ∨ (0x59 : Byte) ≠ Config.syncMarker) := by decide

theorem witness_RxbyteAnchors :
    (seen 0x5A).meter.inited = true ∧ (seen 0x5A).sync.mode = .hunt ∧ (seen 0x5A).sync.winValid = true ∧
      (0x5A : Byte) = Config.syncMarker := by decide

/-- RxbyteCollects: CNT at both ends of its range. -/
theorem witness_RxbyteCollects :
    ∀ c ∈ [(0 : BitVec 5), 2, 22], (collecting f1 c).meter.inited = true ∧ (collecting f1 c).sync.mode = .collect ∧
      (collecting f1 c).sync.cnt.toNat < 23 := by decide

/-- The hypotheses of a completing candidate: RxbyteCompletesByStages and CandidateIsJudgedWhole. -/
def Completes (s : State) (b : Byte) (f : Frame) : Prop :=
  s.meter.inited = true ∧ s.sync.mode = .collect ∧ s.sync.cnt = 23 ∧
    ∀ (k : Nat) (h : k < 24), f[k] = if k = 23 then b else s.sync.fb.read k

theorem completes_f1 : Completes (collecting f1 23) 0xDE f1 := by
  refine ⟨rfl, rfl, rfl, ?_⟩
  decide

theorem completes_bad : Completes (collecting f1 23) 0xDF (f1.set 23 0xDF) := by
  refine ⟨rfl, rfl, rfl, ?_⟩
  decide

theorem witness_RxbyteCompletesByStages : ∃ s b f, Completes s b f := ⟨_, _, _, completes_f1⟩

/-- CandidateIsJudgedWhole: a candidate that validates and one that does not. -/
theorem witness_CandidateIsJudgedWhole :
    (∃ s b f, Completes s b f ∧ validateFrame f = true) ∧ ∃ s b f, Completes s b f ∧ validateFrame f ≠ true :=
  ⟨⟨_, _, _, completes_f1, by decide⟩, ⟨_, _, _, completes_bad, by decide⟩⟩

theorem witness_RxbyteBeyondBufferFaults :
    ∀ c ∈ [(24 : BitVec 5), 31], (collecting f1 c).meter.inited = true ∧ (collecting f1 c).sync.mode = .collect ∧
      24 ≤ (collecting f1 c).sync.cnt.toNat := by decide

/-- ReanchorRescans: a least marker at offset 2, at offset 23, and none. -/
theorem witness_ReanchorRescans :
    (((zeros 0).set 2 0x5A)[2] = Config.syncMarker ∧
        ∀ (k : Nat) (_ : k < 2), 2 ≤ k → ((zeros 0).set 2 0x5A)[k] ≠ Config.syncMarker) ∧
      (((zeros 0).set 23 0x5A)[23] = Config.syncMarker ∧
        ∀ (k : Nat) (_ : k < 23), 2 ≤ k → ((zeros 0).set 23 0x5A)[k] ≠ Config.syncMarker) ∧
      ∀ (j : Nat) (_ : j < 24), 2 ≤ j → (zeros 0)[j] ≠ Config.syncMarker := by
  refine ⟨⟨by decide, ?_⟩, ⟨by decide, ?_⟩, ?_⟩ <;> decide

theorem witness_ReanchorIsReplay : ready.meter.inited = true := rfl

/-- FlushDiscardsCandidate: both clauses. -/
theorem witness_FlushDiscardsCandidate : (collecting f1 12).meter.inited = true ∧ State.reset.meter.inited = false :=
  ⟨rfl, rfl⟩

theorem witness_NothingElseStores :
    ∀ i ∈ [Instr.idle, .flush, .init, .validate f1, .accept f1, .decode f1, .convert (decodeFields f1)],
      completes i (collecting f1 12) = true := by decide

theorem witness_InitStartsLifetime : ready.env.cfgKv ≠ 0 ∧ ready.env.cfgKi ≠ 0 := by decide

/-- InitRefusesZeroConstant: each disjunct, on its own. -/
theorem witness_InitRefusesZeroConstant :
    ((ready.withCfg 0 1).env.cfgKv = 0 ∨ (ready.withCfg 0 1).env.cfgKi = 0) ∧
      ((ready.withCfg 1 0).env.cfgKv = 0 ∨ (ready.withCfg 1 0).env.cfgKi = 0) := by decide

theorem witness_HardwareResetLeaves :
    (offered true (.command 0)).env.input = [⟨true, .command 0, 0x20000, 0x8000⟩] ∧
      (⟨true, .command 0, 0x20000, 0x8000⟩ : PortItem).rst = true := ⟨rfl, rfl⟩

theorem witness_OnlyInitSamplesConfiguration : (Instr.accept f1) ≠ .init := by decide

/-- SumCheckLaws: the clauses with premises, at offsets 2 and 23, at the pair 2 and 22, and at a swap of two payload bytes. -/
theorem witness_SumCheckLaws :
    (validateFrame f1 = true ∧ (0x65 : Byte) ≠ f1[2] ∧ (0xDF : Byte) ≠ f1[23]) ∧
      ((2 : Nat) < 23 ∧ 22 < 23 ∧ 2 ≤ 2 ∧ 2 ≤ 22 ∧ (2 : Nat) ≠ 22) ∧
      ((f1.toList.drop 2).take 21).Perm ((((f1.set 4 0x32).set 7 0x64).toList.drop 2).take 21) ∧
        f1[23] = ((f1.set 4 0x32).set 7 0x64)[23] := by decide

/-- The statements about CONVERT and ACCEPT under INITED = 1: ConvertScalesVoltageCurrent, ConvertScalesPower,
ConvertDerivesApparentAndFactor, UnreadyCauses. -/
theorem witness_Inited : ready.meter.inited = true := rfl

theorem witness_ConvertBeforeInitHasNoValue :
    State.reset.meter.inited = false ∧ (decodeFields f1).status ∉ State.reset.env.oorStatuses := by decide

/-- RoundingErrorBounds: C1. -/
theorem witness_RoundingErrorBounds :
    ∃ t r, ready.meter.inited = true ∧ (decodeFields f1).status ∉ ready.env.oorStatuses ∧
      exec (.convert (decodeFields f1)) ready = .next t ∧ t.stage = .reading r ∧
      (decodeFields f1).vreg = some 50 ∧ (decodeFields f1).ireg = some 10 ∧ (decodeFields f1).preg = some 5 ∧
      r.voltage = some 0x8000 ∧ r.current = some 0x1999 ∧ r.activePower = some 0x0CCC ∧
      r.apparentPower = some 0x0CCC :=
  ⟨after (.convert (decodeFields f1)) ready,
    ⟨some 0x8000, some 0x1999, some 0x0CCC, some 0x0CCC, some 0x10000, 1⟩, rfl, by decide, exec_after (by decide),
    by decide, by decide, by decide, by decide, rfl, rfl, rfl, rfl⟩

/-- PulseLaw: INIT completes after reset; F1 and then the frame with pulse count 0 (checksum DD). -/
theorem witness_PulseLaw :
    (∃ s, exec .init State.reset = .next s) ∧
      ∃ t u, exec (.accept f1) ready = .next t ∧ exec (.accept ((f1.set 22 0).set 23 0xDD)) t = .next u ∧
        ((f1.set 22 0).set 23 0xDD)[20] &&& 0x80 = 0 ∧
        ((f1.set 22 0).set 23 0xDD)[21].toNat * 256 + ((f1.set 22 0).set 23 0xDD)[22].toNat <
          f1[21].toNat * 256 + f1[22].toNat :=
  ⟨⟨_, exec_after (by decide)⟩, _, _, rfl, rfl, by decide, by decide⟩

theorem inv_collecting : (collecting f1 23).sync.Inv (collecting f1 23).meter.inited where
  hunt_iff := by decide
  collect := by decide
  uninit := by decide
  fb_wf := by decide

/-- From reset, INIT's table word presented first is what the first step runs. -/
theorem test_fetch_word : step (State.reset.withFetchWord 16 0x300) = exec .init State.reset :=
  step_present State.reset (.command 0x300)

/-- A step with 24 bytes of a wrong Checksum presented runs them (R96): CHECKSUM_INVALID at the last one. -/
theorem test_step_any_frame :
    step (ready.present (.frame (f1.set 23 0xDF))) = .next (after (.frame (f1.set 23 0xDF)) ready) ∧
      (after (.frame (f1.set 23 0xDF)) ready).outs = List.replicate 23 ⟨.none, none⟩ ++ [⟨.checksumInvalid, none⟩] :=
  ⟨(step_present _ _).trans (exec_after (by decide)), by decide⟩

/-- A step with the last byte of F1 presented. -/
theorem step_last_byte :
    step ((collecting f1 23).present (.command 0x1DE)) = .next (after (.rxbyte 0xDE) (collecting f1 23)) :=
  (step_present _ _).trans (exec_after (by decide))

/-- SyncInvariantKept: the reset state, with nothing presented; and a full candidate whose last byte is presented. -/
theorem witness_SyncInvariantKept :
    (∃ t, step State.reset = .next t) ∧
      (collecting f1 23).sync.Inv (collecting f1 23).meter.inited ∧
        ∃ t, step ((collecting f1 23).present (.command 0x1DE)) = .next t :=
  ⟨⟨_, rfl⟩, inv_collecting, ⟨_, step_last_byte⟩⟩

/-- InvariantKept: a full candidate after INIT, its last byte presented. -/
theorem witness_InvariantKept :
    ∃ s t : State, s.Inv ∧ step s = .next t ∧ t.meter.lastFrameValid = true := by
  refine ⟨(collecting f1 23).present (.command 0x1DE), after (.rxbyte 0xDE) (collecting f1 23),
    ⟨inv_collecting, ?_⟩, step_last_byte, by decide⟩
  constructor <;> decide

/-- EveryInstructionCompletes: a state inside the invariant, with nonzero constants for INIT. -/
theorem witness_EveryInstructionCompletes :
    (collecting f1 23).sync.Inv (collecting f1 23).meter.inited ∧ (collecting f1 23).env.cfgKv ≠ 0 ∧
      (collecting f1 23).env.cfgKi ≠ 0 := ⟨inv_collecting, by decide, by decide⟩

/-- ControlTransfers: each row that has premises, CNT at both ends of its range. -/
theorem witness_ControlTransfers :
    (State.reset.meter.inited = false ∧ (Instr.flush = .flush ∨ ∃ b, Instr.flush = .rxbyte b)) ∧
      ((seen 0).meter.inited = true ∧ (seen 0).sync.mode = .hunt ∧ (seen 0).sync.cnt = 0) ∧
      (∀ c ∈ [(2 : BitVec 5), 22], (collecting f1 c).meter.inited = true ∧ (collecting f1 c).sync.mode = .collect ∧
        2 ≤ (collecting f1 c).sync.cnt.toNat ∧ (collecting f1 c).sync.cnt.toNat ≤ 22) ∧
      (∃ s b f, Completes s b f ∧ validateFrame f = true) ∧ (∃ s b f, Completes s b f ∧ validateFrame f ≠ true) ∧
      ready.env.cfgKv ≠ 0 ∧ ready.env.cfgKi ≠ 0 :=
  ⟨⟨rfl, .inl rfl⟩, by decide, by decide, ⟨_, _, _, completes_f1, by decide⟩, ⟨_, _, _, completes_bad, by decide⟩,
    by decide, by decide⟩

/-- OnlyCompletionReports: a command that reports something. -/
theorem witness_OnlyCompletionReports :
    commandOnly (.rxbyte 0xDE) = true ∧ ∃ t, exec (.rxbyte 0xDE) (collecting f1 23) = .next t :=
  ⟨rfl, _, exec_after (by decide)⟩

theorem witness_CountersOnlyRise : Instr.accept f1 ≠ .init ∧ ∃ t, exec (.accept f1) ready = .next t :=
  ⟨by decide, _, exec_after (by decide)⟩

/-- UnspecifiedNeverObserved: two different states of the same view. -/
theorem witness_UnspecifiedNeverObserved :
    ∃ s t : State, s ≠ t ∧ s.view = t.view :=
  ⟨State.reset, { State.reset with sync := { Sync.reset with winPrev := 0x77, fb := [(5, 0x33)] } }, by decide, by decide⟩

theorem witness_FrameIsItsBytes : ∃ t, exec (.frame f1) ready = .next t := ⟨_, exec_after (by decide)⟩

/-- FrameIsAccepted and the streams after it: F1, and F1 with the marker as Status (Y10). -/
theorem witness_FrameIsAccepted :
    ready.meter.inited = true ∧ ready.sync.mode = .hunt ∧ ready.sync.winValid = false ∧
      f1[1] = Config.syncMarker ∧ validateFrame f1 = true ∧
      (f1.set 0 0x5A)[1] = Config.syncMarker ∧ validateFrame (f1.set 0 0x5A) = true := by decide

theorem witness_NoReportBefore24Bytes :
    ready.meter.inited = true ∧ ready.sync.mode = .hunt ∧ ready.sync.winValid = false ∧
      (f1.toList.take 23).length < 24 := by decide

/-- CleanNoiseIsDropped: no noise before a Status that is the marker, and noise with the marker at position 0. -/
theorem witness_CleanNoiseIsDropped :
    (ready.meter.inited = true ∧ ready.sync.mode = .hunt ∧ ready.sync.winValid = false ∧
      (f1.set 0 0x5A)[1] = Config.syncMarker ∧ validateFrame (f1.set 0 0x5A) = true ∧
      (∀ (q : Nat) (hq : q < ([] : List Byte).length), 1 ≤ q → ([] : List Byte)[q] ≠ Config.syncMarker) ∧
      (([] : List Byte) = [] ∨ (f1.set 0 0x5A)[0] ≠ Config.syncMarker)) ∧
    f1[1] = Config.syncMarker ∧ validateFrame f1 = true ∧ (∀ (q : Nat) (hq : q < [(0x5A : Byte), 0x22, 0x33].length), 1 ≤ q →
        [(0x5A : Byte), 0x22, 0x33][q] ≠ Config.syncMarker) ∧
      ([(0x5A : Byte), 0x22, 0x33] = [] ∨ f1[0] ≠ Config.syncMarker) := by
  refine ⟨⟨rfl, rfl, rfl, rfl, by decide, by decide, .inl rfl⟩, rfl, by decide, by decide, by decide⟩

/-- ResynchronisationLaw: noise with an earlier anchor whose candidate is rejected (Y3), and noise that is a whole frame. -/
theorem witness_ResynchronisationLaw :
    (runBytes ([0x11, 0x5A, 0x22, 0x33] ++ f1.toList) ready).map
        (fun p => p.1.map Output.isAcceptance) = some (List.replicate 27 false ++ [true]) ∧
      (runBytes (f1.toList ++ f1.toList) ready).map
        (fun p => (p.1.map Output.isAcceptance).count true) = some 2 := by decide

/-- AnyFrameBytesRun: a right frame, a wrong Checksum and a wrong Sync, in a hunting block with an empty window. -/
theorem witness_AnyFrameBytesRun :
    ready.meter.inited = true ∧ ready.sync.mode = .hunt ∧ ready.sync.winValid = false ∧
      (f1[1] = Config.syncMarker ∧ validateFrame f1 = true) ∧
      ((f1.set 23 0xDF)[1] = Config.syncMarker ∧ validateFrame (f1.set 23 0xDF) = false) ∧
      (f1.set 1 0)[1] ≠ Config.syncMarker := by decide

end Sys2Proof.Tests
end

section
/-! SUPPORT. What a step does by what stands on the port: an item with the reset line low or high, or nothing (00_scope.md R15;
30_encoding.md R86; 70_reset_and_hazards.md R240). -/

namespace Sys2Proof

open Sys2Proof.Machine

/-! ### The decoder on words of the port -/

/-- A command word decodes to one of the four commands, none of which has a form to meet (R95). -/
theorem decodeCommand_wf (w : BitVec 10) : (decodeCommand w).wf = true := by
  unfold decodeCommand
  split <;> rfl

/-- No word of the port is illegal (R95, R96). -/
theorem decodeWord_wf (word : PortWord) : (decodeWord word).wf = true := by
  cases word with
  | command w => exact decodeCommand_wf w
  | frame f => rfl

/-- Bytes that stand for a word decode to what the port runs for it. -/
theorem decode_of_portWord {bytes : List Byte} {word : PortWord} (h : portWord bytes = .ok word) :
    decode bytes = .ok (decodeWord word) := by
  rw [decode, h]
  rfl

namespace Machine

/-! ### The port with an item presented -/

theorem fetch_of_cons {s : State} {x : PortItem} {rest : List PortItem} (h : s.env.input = x :: rest) :
    s.fetch = x := by
  rw [State.fetch, h]

theorem presented_of_cons {s : State} {x : PortItem} {rest : List PortItem} (h : s.env.input = x :: rest) :
    s.presented = { s with env := { s.env with input := rest, cfgKv := x.cfgKv, cfgKi := x.cfgKi } } := by
  rw [State.presented, fetch_of_cons h, h, List.tail_cons]

theorem step_of_reset_low {s : State} {x : PortItem} {rest : List PortItem} (h : s.env.input = x :: rest)
    (hlow : x.rst = false) :
    step s = exec (decodeWord x.word)
      { s with env := { s.env with input := rest, cfgKv := x.cfgKv, cfgKi := x.cfgKi } } := by
  obtain ⟨hhigh, -⟩ | ⟨-, hstep⟩ := step_cases s
  · rw [fetch_of_cons h, hlow] at hhigh
    contradiction
  · rw [hstep, fetch_of_cons h, presented_of_cons h]

theorem step_of_reset_high {s : State} {x : PortItem} {rest : List PortItem} (h : s.env.input = x :: rest)
    (hhigh : x.rst = true) :
    step s = .next ({ s with env :=
      { s.env with input := rest, cfgKv := x.cfgKv, cfgKi := x.cfgKi } } : State).hardwareReset := by
  obtain ⟨-, hstep⟩ | ⟨hlow, -⟩ := step_cases s
  · rw [hstep, presented_of_cons h]
  · rw [fetch_of_cons h, hhigh] at hlow
    contradiction

/-! ### The port with nothing presented -/

theorem fetch_of_nil {s : State} (h : s.env.input = []) :
    s.fetch = { rst := false, word := .command 0x000, cfgKv := s.env.cfgKv, cfgKi := s.env.cfgKi } := by
  rw [State.fetch, h]

/-- There is no item to consume, and the configuration inputs stay where they are. -/
theorem presented_of_nil {s : State} (h : s.env.input = []) : s.presented = s := by
  rw [State.presented, fetch_of_nil h, h, List.tail_nil, ← h]

/-- "No byte now" (R86, R226; log entry 4). -/
theorem step_of_nil {s : State} (h : s.env.input = []) : step s = exec .idle s := by
  have hidle : decodeWord (.command 0x000) = .idle := rfl
  obtain ⟨hhigh, -⟩ | ⟨-, hstep⟩ := step_cases s
  · rw [fetch_of_nil h] at hhigh
    contradiction
  · rw [hstep, presented_of_nil h, fetch_of_nil h, hidle]

/-- Settles O5, clause by clause: an item with the reset line low, by its word and by the bytes of that word; an empty port; the
reset line high. -/
theorem stepRunsDecoded : Obligations.StepRunsDecoded := by
  refine ⟨?_, ?_, ?_, ?_⟩
  · intro s x rest hin hlow
    exact ⟨decodeWord_wf x.word, step_of_reset_low hin hlow⟩
  · intro s x rest bs i hin hlow hword hdec
    have hi : decodeWord x.word = i := Except.ok.inj ((decode_of_portWord hword).symm.trans hdec)
    rw [step_of_reset_low hin hlow, hi]
  · intro s hin
    exact step_of_nil hin
  · intro s x rest hin hhigh
    exact step_of_reset_high hin hhigh

end Machine

end Sys2Proof
end

section
/-! SUPPORT. The registers under RXBYTE, FRAME and a step: what each can do to group S and group M, said once, and the invariants of
10_state.md R26 and of group M (R28 to R40) that follow. -/

namespace Sys2Proof.Machine

/-! ### What RXBYTE, FRAME and a step can do -/

/-- Everything RXBYTE can do when it completes: the five arms of R112. -/
theorem receive_next_cases {s t : State} {b : Byte} (h : s.receive b = .next t) :
    (s.meter.inited = false ∧ s.endCommand .none = t) ∨
    (s.meter.inited = true ∧ s.sync.mode = .hunt ∧ s.sync.anchors b = true ∧
      ({ s with sync := s.sync.anchor b } : State).endCommand .none = t) ∨
    (s.meter.inited = true ∧ s.sync.mode = .hunt ∧ s.sync.anchors b = false ∧
      ({ s with sync := s.sync.slide b } : State).endCommand .none = t) ∨
    (s.meter.inited = true ∧ s.sync.mode = .collect ∧
      ∃ hc : s.sync.cnt.toNat < 23, ({ s with sync := s.sync.collect b hc } : State).endCommand .none = t) ∨
    (s.meter.inited = true ∧ s.sync.mode = .collect ∧ s.sync.cnt = 23 ∧ s.complete b = t) := by
  rcases receive_cases s b with ⟨hi, e⟩ | ⟨hi, hm, ha, e⟩ | ⟨hi, hm, ha, e⟩ | ⟨hi, hm, hc, e⟩ | ⟨hi, hm, hc, e⟩ |
    ⟨_, _, _, e⟩ <;> rw [e] at h
  · exact .inl ⟨hi, Host.Outcome.next.inj h⟩
  · exact .inr (.inl ⟨hi, hm, ha, Host.Outcome.next.inj h⟩)
  · exact .inr (.inr (.inl ⟨hi, hm, ha, Host.Outcome.next.inj h⟩))
  · exact .inr (.inr (.inr (.inl ⟨hi, hm, hc, Host.Outcome.next.inj h⟩)))
  · exact .inr (.inr (.inr (.inr ⟨hi, hm, hc, Host.Outcome.next.inj h⟩)))
  · cases h

/-- RXBYTE leaves group M alone, or it is ACCEPT of the candidate it completes (R117, R122). -/
theorem receive_meter_cases {s t : State} {b : Byte} (h : s.receive b = .next t) :
    t.meter = s.meter ∨
    (s.meter.inited = true ∧ s.sync.mode = .collect ∧ s.sync.cnt = 23 ∧ validateFrame (s.candidate b) = true ∧
      t.meter = (s.acceptFrame (s.candidate b)).meter) := by
  rcases receive_next_cases h with ⟨_, rfl⟩ | ⟨_, _, _, rfl⟩ | ⟨_, _, _, rfl⟩ | ⟨_, _, _, rfl⟩ | ⟨hi, hm, hc, rfl⟩
  · exact .inl rfl
  · exact .inl rfl
  · exact .inl rfl
  · exact .inl rfl
  · cases hv : validateFrame (s.candidate b) with
    | true => exact .inr ⟨hi, hm, hc, rfl, complete_accept_meter hv⟩
    | false => exact .inl (complete_reject_meter hv)

/-- What RXBYTE keeps of the registers, a list of them keeps (R100). -/
theorem stream_keeps (P : Sync → Meter → Prop)
    (hrx : ∀ (s t : State) (b : Byte), P s.sync s.meter → s.receive b = .next t → P t.sync t.meter)
    {bs : List Byte} {s t : State} (hs : P s.sync s.meter) (h : s.stream bs = .next t) : P t.sync t.meter := by
  induction bs generalizing s t with
  | nil => obtain rfl := Host.Outcome.next.inj h; exact hs
  | cons b bs ih =>
    obtain ⟨s₁, t₁, h₁, h₂, rfl⟩ := stream_cons_inv h
    have hs₁ : P s₁.sync s₁.meter := hrx s s₁ b hs h₁
    have ht₁ : P t₁.sync t₁.meter := ih hs₁ h₂
    exact ht₁

/-- The words of the port stand for the four commands and FRAME, never for a stage function (R101). -/
theorem decodeWord_cases (word : PortWord) :
    decodeWord word = .idle ∨ (∃ b, decodeWord word = .rxbyte b) ∨ decodeWord word = .flush ∨
      decodeWord word = .init ∨ ∃ f, decodeWord word = .frame f := by
  cases word with
  | command w =>
    simp only [decodeWord, decodeCommand]
    split <;> simp
  | frame f => exact .inr (.inr (.inr (.inr ⟨f, rfl⟩)))

/-- A predicate on the registers that each rule which writes them keeps: hardware reset (R240), FLUSH (R121), INIT (R171) and
RXBYTE (R112). -/
structure KeptByRules (P : Sync → Meter → Prop) : Prop where
  reset : ∀ (g : Sync) (m : Meter), P g m → P g.toHunt { m.clear with inited := false }
  flush : ∀ (g : Sync) (m : Meter), P g m → P g.toHunt m
  init : ∀ (g : Sync) (m : Meter) (kv ki : BitVec Config.kW), kv ≠ 0 → ki ≠ 0 → P g m →
    P g.toHunt (m.initialise kv ki)
  rxbyte : ∀ (s t : State) (b : Byte), P s.sync s.meter → s.receive b = .next t → P t.sync t.meter

/-- What every rule keeps, every step keeps. -/
theorem KeptByRules.step {P : Sync → Meter → Prop} (hP : KeptByRules P) {s t : State} (hs : P s.sync s.meter)
    (h : Machine.step s = .next t) : P t.sync t.meter := by
  obtain ⟨-, e⟩ | ⟨-, e⟩ := step_cases s <;> rw [e] at h
  · obtain rfl := Host.Outcome.next.inj h
    exact hP.reset _ _ hs
  · rcases decodeWord_cases s.fetch.word with hd | ⟨b, hd⟩ | hd | hd | ⟨f, hd⟩ <;> rw [hd] at h
    · obtain rfl := Host.Outcome.next.inj h
      exact hs
    · exact hP.rxbyte s.presented t b hs h
    · obtain rfl := Host.Outcome.next.inj h
      rw [State.endCommand_sync, State.endCommand_meter, State.presented_sync, State.presented_meter]
      cases s.meter.inited with
      | true => exact hP.flush _ _ hs
      | false => exact hs
    · rcases exec_init_cases s.presented with ⟨_, e⟩ | ⟨hkv, hki, e⟩ <;> rw [e] at h
      · cases h
      · obtain rfl := Host.Outcome.next.inj h
        exact hP.init _ _ _ _ hkv hki hs
    · have hp : P s.presented.sync s.presented.meter := hs
      exact stream_keeps P hP.rxbyte hp h

/-! ### The invariants of group S (R26) -/

theorem Sync.inv_toHunt {g : Sync} (hwf : g.fb.wf = true) (inited : Bool) : g.toHunt.Inv inited where
  hunt_iff := by simp
  collect := by simp
  uninit := by simp
  fb_wf := hwf

theorem Sync.inv_slide {g : Sync} (h : g.Inv true) (hm : g.mode = .hunt) (b : Byte) : (g.slide b).Inv true where
  hunt_iff := h.hunt_iff
  collect := by simp [hm]
  uninit := by simp
  fb_wf := h.fb_wf

theorem Sync.inv_anchor {g : Sync} {b : Byte} (h : g.Inv true) (ha : g.anchors b = true) : (g.anchor b).Inv true where
  hunt_iff := by simp
  collect _ := by
    simp only [Sync.anchors, Bool.and_eq_true, beq_iff_eq] at ha
    simp [ha.2]
  uninit := by simp
  fb_wf := Memory.wf_write (Memory.wf_write h.fb_wf (by omega) _) (by omega) _

/-- A byte collected goes above offset 1, so the marker there stays. -/
theorem Sync.inv_collect {g : Sync} (h : g.Inv true) (hm : g.mode = .collect) (b : Byte) (hc : g.cnt.toNat < 23) :
    (g.collect b hc).Inv true := by
  obtain ⟨h2, -, h1, hw⟩ := h.collect hm
  have hcnt : (g.cnt + 1).toNat = g.cnt.toNat + 1 := by
    rw [BitVec.toNat_add, show (1 : BitVec 5).toNat = 1 from rfl]
    omega
  refine ⟨?_, fun _ => ⟨?_, ?_, ?_, hw⟩, by simp, Memory.wf_write h.fb_wf (by omega) b⟩
  · refine iff_of_false (by simp [hm]) fun e => ?_
    rw [Sync.collect_cnt] at e
    rw [e, show (0 : BitVec 5).toNat = 0 from rfl] at hcnt
    omega
  · rw [Sync.collect_cnt, hcnt]; omega
  · rw [Sync.collect_cnt, hcnt]; omega
  · rw [Sync.collect_fb, Memory.read_write, if_neg (by omega), h1]

/-- With the least marker of f at j, the marker comes to offset 1 and 25 - j bytes, from 2 to 23, are held (R118). -/
theorem Sync.inv_reanchor {g : Sync} (hwf : g.fb.wf = true) (f : Frame) : (g.reanchor f).Inv true := by
  cases hF : firstMarker f with
  | none =>
    rw [reanchor_none hF]
    exact ⟨by simp, by simp, by simp, hwf⟩
  | some j =>
    obtain ⟨hj, hj2, hjm, -⟩ := firstMarker_some hF
    have h1 : (g.reanchor f).fb.read 1 = Config.syncMarker := by
      rw [read_reanchor_some hF, dif_pos (by omega), ← hjm]
      simp only [show j - 1 + 1 = j by omega]
    rw [reanchor_some hF] at h1 ⊢
    have hcnt : (BitVec.ofNat 5 (25 - j)).toNat = 25 - j := by
      rw [BitVec.toNat_ofNat]; omega
    have hne : BitVec.ofNat 5 (25 - j) ≠ 0 := fun e => by
      rw [e, show (0 : BitVec 5).toNat = 0 from rfl] at hcnt; omega
    refine ⟨iff_of_false (by simp) hne, fun _ => ⟨?_, ?_, h1, rfl⟩, by simp, Memory.wf_writeBlock _ hwf ?_⟩
    · rw [hcnt]; omega
    · rw [hcnt]; omega
    · rw [List.length_drop, Vector.length_toList]; omega

theorem receive_inited {s t : State} {b : Byte} (h : s.receive b = .next t) : t.meter.inited = s.meter.inited := by
  rcases receive_meter_cases h with e | ⟨_, _, _, _, e⟩ <;> simp [e]

theorem receive_keeps_syncInv {s t : State} {b : Byte} (hs : s.sync.Inv s.meter.inited) (h : s.receive b = .next t) :
    t.sync.Inv t.meter.inited := by
  rw [receive_inited h]
  rcases receive_next_cases h with ⟨_, rfl⟩ | ⟨hi, _, ha, rfl⟩ | ⟨hi, hm, _, rfl⟩ | ⟨hi, hm, hc, rfl⟩ | ⟨hi, _, _, rfl⟩
  · exact hs
  all_goals rw [hi] at hs ⊢
  · exact Sync.inv_anchor hs ha
  · exact Sync.inv_slide hs hm b
  · exact Sync.inv_collect hs hm b hc
  · have hwf : (s.sync.memWrite 23 b).fb.wf = true := Memory.wf_write hs.fb_wf (by decide) b
    cases hv : validateFrame (s.candidate b) with
    | true => rw [complete_accept_sync hv]; exact Sync.inv_toHunt hwf true
    | false => rw [complete_reject_sync hv]; exact Sync.inv_reanchor hwf _

theorem syncInv_keptByRules : KeptByRules fun g m => g.Inv m.inited where
  reset _ _ h := Sync.inv_toHunt h.fb_wf _
  flush _ _ h := Sync.inv_toHunt h.fb_wf _
  init _ _ _ _ _ _ h := Sync.inv_toHunt h.fb_wf _
  rxbyte _ _ _ := receive_keeps_syncInv

theorem reset_syncInv : State.reset.sync.Inv State.reset.meter.inited :=
  have hwf : Sync.reset.fb.wf = true := Memory.wf_nil
  Sync.inv_toHunt hwf false

/-- Settles O35: each rule that writes group S keeps its invariant. -/
theorem syncInvariantKept : Obligations.SyncInvariantKept :=
  ⟨reset_syncInv, fun _ _ hs h => syncInv_keptByRules.step hs h⟩

/-! ### The invariants of group M (R28 to R40) -/

@[simp] theorem countOverflow_lastFrameValid (m : Meter) (o : Bool) :
    (m.countOverflow o).lastFrameValid = m.lastFrameValid := by
  rw [countOverflow_frame]

@[simp] theorem countOverflow_lastVValid (m : Meter) (o : Bool) : (m.countOverflow o).lastVValid = m.lastVValid := by
  rw [countOverflow_frame]

@[simp] theorem countOverflow_lastIValid (m : Meter) (o : Bool) : (m.countOverflow o).lastIValid = m.lastIValid := by
  rw [countOverflow_frame]

@[simp] theorem countOverflow_lastPValid (m : Meter) (o : Bool) : (m.countOverflow o).lastPValid = m.lastPValid := by
  rw [countOverflow_frame]

@[simp] theorem countOverflow_lastSValid (m : Meter) (o : Bool) : (m.countOverflow o).lastSValid = m.lastSValid := by
  rw [countOverflow_frame]

@[simp] theorem countOverflow_lastPfValid (m : Meter) (o : Bool) : (m.countOverflow o).lastPfValid = m.lastPfValid := by
  rw [countOverflow_frame]

/-- OVF_SAT is set at a full counter only, and a full counter stays full (R189). -/
theorem countOverflow_saturated {m : Meter} (h : m.ovfSat = true → m.ovfCnt = BitVec.allOnes Config.ovfW) (o : Bool)
    (hs : (m.countOverflow o).ovfSat = true) : (m.countOverflow o).ovfCnt = BitVec.allOnes Config.ovfW := by
  rcases countOverflow_cases m o with ⟨_, e⟩ | ⟨_, hf, e⟩ | ⟨_, hf, e⟩ <;> rw [e] at hs ⊢
  · exact h hs
  · exact hf
  · exact absurd (h hs) hf

/-- An accepted frame has been counted (R32). -/
theorem record_frameCnt_ne_zero (m : Meter) (f : Frame) (r : Reading) : (m.record f r).frameCnt ≠ 0 := by
  intro e
  have h := record_frameCnt_toNat m f r
  rw [e, show (0 : BitVec Config.frameCntW).toNat = 0 from rfl] at h
  omega

/-- apparentPower needs both voltage and current (R183). -/
theorem isSome_apparentPowerOf (v : Option (BitVec Config.vW)) (i : Option (BitVec Config.iW)) :
    (apparentPowerOf v i).isSome = (v.isSome && i.isSome) := by
  cases v <;> cases i <;> rfl

/-- powerFactor needs both activePower and apparentPower (R185). -/
theorem isSome_powerFactorOf (p : Option (BitVec Config.pW)) (q : Option (BitVec Config.sW)) :
    (powerFactorOf p q).isSome = (p.isSome && q.isSome) := by
  cases p with
  | none => rfl
  | some p =>
    cases q with
    | none => rfl
    | some q =>
      by_cases h : q = 0
      · simp only [powerFactorOf, if_pos h, Option.isSome_some, Bool.and_self]
      · simp only [powerFactorOf, if_neg h, Option.isSome_some, Bool.and_self]

theorem readingOfFrame_apparentPower_isSome (s : State) (f : Frame) :
    (s.readingOfFrame f).apparentPower.isSome =
      ((s.readingOfFrame f).voltage.isSome && (s.readingOfFrame f).current.isSome) :=
  isSome_apparentPowerOf _ _

theorem readingOfFrame_powerFactor_isSome (s : State) (f : Frame) :
    (s.readingOfFrame f).powerFactor.isSome =
      ((s.readingOfFrame f).activePower.isSome && (s.readingOfFrame f).apparentPower.isSome) :=
  isSome_powerFactorOf _ _

/-- A cleared group M meets its invariant when its constants are nonzero or not in use (R29, R244). -/
theorem Meter.inv_clear (m : Meter) (kv ki : BitVec Config.kW) (inited : Bool)
    (hcal : inited = true → kv ≠ 0 ∧ ki ≠ 0) : Meter.Inv { m.clear with kv := kv, ki := ki, inited := inited } where
  calibrated := hcal
  blank _ := ⟨rfl, rfl, rfl, rfl, rfl, rfl, rfl, rfl, rfl⟩
  uninit _ := rfl
  counted := by simp
  accepted := by simp
  cumulative := by simp
  saturated := by simp
  apparent := by simp
  factor := by simp

/-- ACCEPT of a good frame keeps the invariant of group M (R173, R193, R194). -/
theorem acceptFrame_keeps_meterInv {s : State} {f : Frame} (hm : s.meter.Inv) (hi : s.meter.inited = true)
    (hsync : syncMatches f = true) (hv : validateFrame f = true) : (s.acceptFrame f).meter.Inv where
  calibrated := by simpa using hm.calibrated
  blank := by simp
  uninit := by simp [hi]
  counted _ := record_frameCnt_ne_zero (s.meter.countOverflow _) f (s.readingOfFrame f)
  accepted _ := ⟨hsync, hv⟩
  cumulative _ := rfl
  saturated := countOverflow_saturated hm.saturated _
  apparent := by
    have hold := hm.apparent
    simp only [State.acceptFrame_meter, Meter.hold_lastSValid, Meter.hold_lastVValid, Meter.hold_lastIValid,
      Meter.record_lastSValid, Meter.record_lastVValid, Meter.record_lastIValid, countOverflow_lastSValid,
      countOverflow_lastVValid, countOverflow_lastIValid, readingOfFrame_apparentPower_isSome, Bool.or_eq_true,
      Bool.and_eq_true]
    tauto
  factor := by
    have hold := hm.factor
    simp only [State.acceptFrame_meter, Meter.hold_lastPfValid, Meter.hold_lastPValid, Meter.hold_lastSValid,
      Meter.record_lastPfValid, Meter.record_lastPValid, Meter.record_lastSValid, countOverflow_lastPfValid,
      countOverflow_lastPValid, countOverflow_lastSValid, readingOfFrame_powerFactor_isSome, Bool.or_eq_true,
      Bool.and_eq_true]
    tauto

/-- A candidate completed under the invariant of group S has the marker at offset 1 (R26 b). -/
theorem syncMatches_candidate {s : State} (hs : s.sync.Inv s.meter.inited) (hm : s.sync.mode = .collect) (b : Byte) :
    syncMatches (s.candidate b) = true := by
  obtain ⟨-, -, h1, -⟩ := hs.collect hm
  have hbyte : (s.candidate b)[1] = Config.syncMarker := by rw [candidate_getElem, if_neg (by decide), h1]
  exact beq_iff_eq.2 hbyte

theorem receive_keeps_meterInv {s t : State} {b : Byte} (hs : s.sync.Inv s.meter.inited) (hm : s.meter.Inv)
    (h : s.receive b = .next t) : t.meter.Inv := by
  rcases receive_meter_cases h with e | ⟨hi, hcol, _, hv, e⟩ <;> rw [e]
  · exact hm
  · exact acceptFrame_keeps_meterInv hm hi (syncMatches_candidate hs hcol b) hv

theorem inv_keptByRules : KeptByRules fun g m => g.Inv m.inited ∧ m.Inv where
  reset g m h := ⟨syncInv_keptByRules.reset g m h.1, m.inv_clear m.kv m.ki false (by simp)⟩
  flush g m h := ⟨syncInv_keptByRules.flush g m h.1, h.2⟩
  init g m kv ki hkv hki h := ⟨syncInv_keptByRules.init g m kv ki hkv hki h.1, m.inv_clear kv ki true fun _ => ⟨hkv, hki⟩⟩
  rxbyte _ _ _ h hrx := ⟨receive_keeps_syncInv h.1 hrx, receive_keeps_meterInv h.1 h.2 hrx⟩

/-- Settles O36: each rule that writes a register keeps the whole invariant. -/
theorem invariantKept : Obligations.InvariantKept := by
  intro s t hs h
  obtain ⟨hsync, hmeter⟩ := inv_keptByRules.step ⟨hs.sync, hs.meter⟩ h
  exact ⟨hsync, hmeter⟩

/-- Settles O37: nothing is held and nothing counted at reset. -/
theorem resetMeetsInvariant : Obligations.ResetMeetsInvariant :=
  ⟨reset_syncInv, Meter.reset.inv_clear 0 0 false (by simp)⟩

end Sys2Proof.Machine
end

section
/-! SUPPORT. What the instructions leave alone: the environment (10_state.md R43), INIT's registers, and the counters, which only rise
(R28 to R32). -/

namespace Sys2Proof.Machine

/-! ### The environment -/

theorem exec_env {i : Instr} {s t : State} (h : exec i s = .next t) : t.env = s.env := by
  cases i with
  | idle => obtain rfl := Host.Outcome.next.inj h; rfl
  | rxbyte b => exact receive_env h
  | flush => obtain rfl := Host.Outcome.next.inj h; rfl
  | init =>
    rcases exec_init_cases s with ⟨_, e⟩ | ⟨_, _, e⟩ <;> rw [e] at h
    · cases h
    · obtain rfl := Host.Outcome.next.inj h; rfl
  | validate f => obtain rfl := Host.Outcome.next.inj h; rfl
  | reanchor f => obtain rfl := Host.Outcome.next.inj h; rfl
  | accept f => obtain rfl := Host.Outcome.next.inj h; rfl
  | decode f => obtain rfl := Host.Outcome.next.inj h; rfl
  | convert d => obtain rfl := Host.Outcome.next.inj h; rfl
  | frame f => exact stream_env h

/-- Settles O6, instruction by instruction. -/
theorem instructionsLeaveEnvironment : Obligations.InstructionsLeaveEnvironment :=
  fun _ _ _ => exec_env

/-! ### The counters -/

/-- From m to n the registers of INIT stay, and the counters and the valid bits of the last frame and the voltage only rise. -/
structure Meter.RisesTo (m n : Meter) : Prop where
  kv : n.kv = m.kv
  ki : n.ki = m.ki
  inited : n.inited = m.inited
  ovfCnt : m.ovfCnt ≤ n.ovfCnt
  ovfSat : m.ovfSat = true → n.ovfSat = true
  frameCnt : m.frameCnt ≤ n.frameCnt
  lastFrameValid : m.lastFrameValid = true → n.lastFrameValid = true
  lastVValid : m.lastVValid = true → n.lastVValid = true

theorem Meter.RisesTo.refl (m : Meter) : m.RisesTo m :=
  ⟨rfl, rfl, rfl, BitVec.le_refl _, id, BitVec.le_refl _, id, id⟩

theorem Meter.RisesTo.trans {l m n : Meter} (h : l.RisesTo m) (k : m.RisesTo n) : l.RisesTo n where
  kv := k.kv.trans h.kv
  ki := k.ki.trans h.ki
  inited := k.inited.trans h.inited
  ovfCnt := BitVec.le_trans h.ovfCnt k.ovfCnt
  ovfSat := k.ovfSat ∘ h.ovfSat
  frameCnt := BitVec.le_trans h.frameCnt k.frameCnt
  lastFrameValid := k.lastFrameValid ∘ h.lastFrameValid
  lastVValid := k.lastVValid ∘ h.lastVValid

/-- A counter that is not full does not wrap around. -/
theorem le_add_one_of_ne_allOnes {w : Nat} {x : BitVec w} (h : x ≠ BitVec.allOnes w) : x ≤ x + 1 := by
  have hx : x.toNat ≠ 2 ^ w - 1 := fun e => h (BitVec.eq_of_toNat_eq (by rw [e, BitVec.toNat_allOnes]))
  have hlt := x.isLt
  have h1 : (1 : BitVec w).toNat ≤ 1 := by simp [Nat.mod_le]
  rw [BitVec.le_def, BitVec.toNat_add, Nat.mod_eq_of_lt (by omega)]
  exact Nat.le_add_right _ _

theorem countOverflow_risesTo (m : Meter) (o : Bool) : m.RisesTo (m.countOverflow o) := by
  rcases countOverflow_cases m o with ⟨_, e⟩ | ⟨_, _, e⟩ | ⟨_, hfull, e⟩ <;> rw [e]
  · exact .refl m
  · exact { Meter.RisesTo.refl m with ovfSat := fun _ => rfl }
  · exact { Meter.RisesTo.refl m with ovfCnt := le_add_one_of_ne_allOnes hfull }

theorem record_risesTo (m : Meter) (f : Frame) (r : Reading) : m.RisesTo (m.record f r) where
  __ := Meter.RisesTo.refl m
  frameCnt := by
    rw [Meter.record_frameCnt]
    split
    · exact BitVec.le_refl _
    · next hfull => exact le_add_one_of_ne_allOnes hfull
  lastFrameValid _ := rfl

theorem hold_risesTo (m : Meter) (r : Reading) : m.RisesTo (m.hold r) where
  __ := Meter.RisesTo.refl m
  lastVValid h := by rw [Meter.hold_lastVValid, h, Bool.true_or]

theorem acceptFrame_risesTo (s : State) (f : Frame) : s.meter.RisesTo (s.acceptFrame f).meter :=
  ((countOverflow_risesTo _ _).trans (record_risesTo _ _ _)).trans (hold_risesTo _ _)

theorem receive_risesTo {s t : State} {b : Byte} (h : s.receive b = .next t) : s.meter.RisesTo t.meter := by
  rcases receive_meter_cases h with e | ⟨_, _, _, _, e⟩ <;> rw [e]
  · exact .refl _
  · exact acceptFrame_risesTo _ _

theorem stream_risesTo {bs : List Byte} {s t : State} (h : s.stream bs = .next t) : s.meter.RisesTo t.meter :=
  stream_keeps (fun _ m => s.meter.RisesTo m) (fun _ _ _ hs hrx => hs.trans (receive_risesTo hrx)) (.refl _) h

/-- Every instruction but INIT, in both the port's commands and the stage functions. -/
theorem exec_risesTo {i : Instr} {s t : State} (hi : i ≠ .init) (h : exec i s = .next t) :
    s.meter.RisesTo t.meter := by
  cases i with
  | idle => obtain rfl := Host.Outcome.next.inj h; exact .refl _
  | rxbyte b => exact receive_risesTo h
  | flush => obtain rfl := Host.Outcome.next.inj h; exact .refl _
  | init => exact absurd rfl hi
  | validate f => obtain rfl := Host.Outcome.next.inj h; exact .refl _
  | reanchor f => obtain rfl := Host.Outcome.next.inj h; exact .refl _
  | accept f => obtain rfl := Host.Outcome.next.inj h; exact acceptFrame_risesTo s f
  | decode f => obtain rfl := Host.Outcome.next.inj h; exact .refl _
  | convert d => obtain rfl := Host.Outcome.next.inj h; exact countOverflow_risesTo _ _
  | frame f => exact stream_risesTo h

/-- Settles O41: no instruction but INIT lets a counter fall. -/
theorem countersOnlyRise : Obligations.CountersOnlyRise := by
  intro i s t hi h
  obtain ⟨hkv, hki, hinited, hovf, hsat, hcnt, hframe, hv⟩ := exec_risesTo hi h
  exact ⟨hkv, hki, hinited, hovf, hsat, hcnt, hframe, hv⟩

/-! ### The frame buffer has no offset 24 -/

/-- RXBYTE at CNT 24 or more in COLLECT: no arm of R112 stands there (log entry 9). -/
theorem receive_beyond {s : State} (b : Byte) (hi : s.meter.inited = true) (hm : s.sync.mode = .collect)
    (hc : 23 < s.sync.cnt.toNat) : s.receive b = .fault (.noSuchOffset s.sync.cnt.toNat) := by
  have hlt : ¬ s.sync.cnt.toNat < 23 := by omega
  have hne : s.sync.cnt ≠ 23 := fun e => by
    rw [e, show (23 : BitVec 5).toNat = 23 from rfl] at hc
    omega
  simp only [State.receive, hi, hm, Bool.not_true, Bool.false_eq_true, if_false, dif_neg hlt, if_neg hne]

/-- Settles O14. -/
theorem rxbyteBeyondBufferFaults : Obligations.RxbyteBeyondBufferFaults :=
  fun _ b hi hm hc => receive_beyond b hi hm hc

end Sys2Proof.Machine
end

section
/-! SUPPORT. What R46 leaves unspecified is never observed: the view of what each operation gives depends on the view it starts from
alone (10_state.md R24, R25, R46; 60_exceptions.md R221). -/

namespace Sys2Proof.Machine

/-! ### Views of a state, part by part -/

theorem State.view_eq {s t : State} (hsync : s.sync.view = t.sync.view) (hmeter : s.meter.view = t.meter.view)
    (houts : s.outs = t.outs) (hstage : s.stage = t.stage) (henv : s.env = t.env) : s.view = t.view := by
  simp only [State.view, hsync, hmeter, houts, hstage, henv]

theorem sync_view_of_view {s t : State} (h : s.view = t.view) : s.sync.view = t.sync.view := congrArg View.sync h

theorem meter_view_of_view {s t : State} (h : s.view = t.view) : s.meter.view = t.meter.view := congrArg View.meter h

theorem outs_of_view {s t : State} (h : s.view = t.view) : s.outs = t.outs := congrArg View.outs h

theorem stage_of_view {s t : State} (h : s.view = t.view) : s.stage = t.stage := congrArg View.stage h

theorem env_of_view {s t : State} (h : s.view = t.view) : s.env = t.env := congrArg View.env h

theorem inited_of_view {s t : State} (h : s.view = t.view) : s.meter.inited = t.meter.inited :=
  congrArg MeterView.inited (meter_view_of_view h)

theorem endCommand_view_congr {s t : State} {g g' : Sync} {m n : Meter} (hsync : g.view = g'.view)
    (hmeter : m.view = n.view) (henv : s.env = t.env) (c : OutcomeCode) (r : Option Reading) :
    (({ s with sync := g, meter := m } : State).endCommand c r).view =
      (({ t with sync := g', meter := n } : State).endCommand c r).view :=
  State.view_eq hsync hmeter rfl rfl henv

theorem returning_view_congr {s t : State} (h : s.view = t.view) (r : StageResult) :
    (s.returning r).view = (t.returning r).view :=
  have hsync := sync_view_of_view h
  have hmeter := meter_view_of_view h
  have houts := outs_of_view h
  have henv := env_of_view h
  State.view_eq hsync hmeter houts rfl henv

/-! ### Views of group S -/

theorem mode_of_view {g g' : Sync} (h : g.view = g'.view) : g.mode = g'.mode := congrArg SyncView.mode h

theorem cnt_of_view {g g' : Sync} (h : g.view = g'.view) : g.cnt = g'.cnt := congrArg SyncView.cnt h

theorem window_of_view {g g' : Sync} (h : g.view = g'.view) : g.window = g'.window := congrArg SyncView.window h

/-- The bytes of FB below CNT are part of the view (R25). -/
theorem read_of_view {g g' : Sync} (h : g.view = g'.view) {a : Nat} (ha : a < g.cnt.toNat) :
    g.fb.read a = g'.fb.read a := by
  have hheld := congrArg (fun v => v.held[a]?) h
  have ha' : a < g'.cnt.toNat := cnt_of_view h ▸ ha
  simpa [Sync.view, ha, ha'] using hheld

/-- Whether b anchors a candidate is seen in the window (R114). -/
theorem anchors_eq_window (g : Sync) (b : Byte) : g.anchors b = (g.window.isSome && b == Config.syncMarker) := by
  cases hw : g.winValid <;> simp [Sync.anchors, Sync.window, hw]

theorem window_of_anchors {g : Sync} {b : Byte} (h : g.anchors b = true) : g.window = some g.winPrev := by
  simp only [Sync.anchors, Bool.and_eq_true] at h
  rw [Sync.window, if_pos h.1]

/-- Back to hunting nothing is held, whatever was held before. -/
theorem toHunt_view_eq (g g' : Sync) : g.toHunt.view = g'.toHunt.view := rfl

theorem view_slide (g : Sync) (b : Byte) : (g.slide b).view = { g.view with window := some b } := rfl

theorem view_anchor (g : Sync) (b : Byte) : (g.anchor b).view = ⟨.collect, 2, none, [g.winPrev, b]⟩ := by
  have h0 : (g.anchor b).fb.read 0 = g.winPrev := by simp
  have h1 : (g.anchor b).fb.read 1 = b := by simp
  calc (g.anchor b).view
      = ⟨.collect, 2, none, [(g.anchor b).fb.read 0, (g.anchor b).fb.read 1]⟩ := rfl
    _ = _ := by rw [h0, h1]

theorem view_collect (g : Sync) (b : Byte) (hc : g.cnt.toNat < 23) :
    (g.collect b hc).view = { g.view with cnt := g.view.cnt + 1, held := g.view.held ++ [b] } := by
  have hcnt : (g.cnt + 1).toNat = g.cnt.toNat + 1 := by
    rw [BitVec.toNat_add, show (1 : BitVec 5).toNat = 1 from rfl]
    omega
  have hheld : (List.range (g.cnt + 1).toNat).map (g.fb.write g.cnt.toNat b).read =
      (List.range g.cnt.toNat).map g.fb.read ++ [b] := by
    rw [hcnt, List.range_succ, List.map_append, List.map_singleton, Memory.read_write, if_pos rfl]
    congr 1
    refine List.map_congr_left fun a ha => ?_
    rw [Memory.read_write, if_neg (Nat.ne_of_lt (List.mem_range.1 ha))]
  calc (g.collect b hc).view
      = ⟨g.mode, g.cnt + 1, g.window, (List.range (g.cnt + 1).toNat).map (g.fb.write g.cnt.toNat b).read⟩ := rfl
    _ = _ := by rw [hheld]; rfl

/-- REANCHOR leaves a view that its frame alone determines (R118). -/
theorem reanchor_view_eq (g g' : Sync) (f : Frame) : (g.reanchor f).view = (g'.reanchor f).view := by
  cases hF : firstMarker f with
  | none =>
    rw [reanchor_none hF, reanchor_none hF]
    rfl
  | some j =>
    obtain ⟨hj, hj2, -, -⟩ := firstMarker_some hF
    have hview (k : Sync) : (k.reanchor f).view =
        ⟨.collect, BitVec.ofNat 5 (25 - j), none,
          (List.range (BitVec.ofNat 5 (25 - j)).toNat).map (k.reanchor f).fb.read⟩ := by
      rw [reanchor_some hF]
      rfl
    rw [hview g, hview g']
    congr 1
    refine List.map_congr_left fun a ha => ?_
    rw [List.mem_range, BitVec.toNat_ofNat] at ha
    rw [read_reanchor_some hF, read_reanchor_some hF, dif_pos (by omega), dif_pos (by omega)]

/-- A candidate about to complete is all in the view. -/
theorem candidate_of_view {s t : State} (h : s.sync.view = t.sync.view) (hc : s.sync.cnt = 23) (b : Byte) :
    s.candidate b = t.candidate b := by
  refine candidate_eq fun k hk => ?_
  rw [candidate_getElem]
  split
  · rfl
  · have hlt : k < s.sync.cnt.toNat := by
      rw [hc, show (23 : BitVec 5).toNat = 23 from rfl]
      omega
    exact (read_of_view h hlt).symm

/-! ### Views of group M -/

theorem gated_hold {α : Type} (valid : Bool) (a : α) (x : Option α) :
    gated (valid || x.isSome) (x.getD a) = x.or (gated valid a) := by
  cases x with
  | none => simp
  | some v => simp [gated]

/-- What the consumer reads after an accepted frame: the new value where there is one, else the held one (R40, R193). -/
theorem view_hold (m : Meter) (r : Reading) :
    (m.hold r).view =
      { m.view with
        lastV := r.voltage.or m.view.lastV
        lastI := r.current.or m.view.lastI
        lastP := r.activePower.or m.view.lastP
        lastS := r.apparentPower.or m.view.lastS
        lastPf := r.powerFactor.or m.view.lastPf } := by
  simp only [Meter.view, ← gated_hold]
  rfl

theorem view_record (m : Meter) (f : Frame) (r : Reading) :
    (m.record f r).view =
      { m.view with
        frameCnt := if m.view.frameCnt = BitVec.allOnes Config.frameCntW then m.view.frameCnt else m.view.frameCnt + 1
        lastFrame := some f
        lastCum := r.cumulativePulses } := rfl

theorem view_countOverflow (m : Meter) (o : Bool) :
    (m.countOverflow o).view =
      if o then
        if m.view.ovfCnt = BitVec.allOnes Config.ovfW then { m.view with ovfSat := true }
        else { m.view with ovfCnt := m.view.ovfCnt + 1 }
      else m.view := by
  have hcnt : m.view.ovfCnt = m.ovfCnt := rfl
  rcases countOverflow_cases m o with ⟨rfl, e⟩ | ⟨rfl, hfull, e⟩ | ⟨rfl, hfull, e⟩ <;> rw [e]
  · rfl
  · rw [if_pos rfl, hcnt, if_pos hfull]
    rfl
  · rw [if_pos rfl, hcnt, if_neg hfull]
    rfl

theorem countOverflow_view_congr {m n : Meter} (h : m.view = n.view) (o : Bool) :
    (m.countOverflow o).view = (n.countOverflow o).view := by
  rw [view_countOverflow, view_countOverflow, h]

/-- After INIT group M shows the constants and is blank otherwise, whatever it held (R171). -/
theorem initialise_view_eq (m n : Meter) (kv ki : BitVec Config.kW) :
    (m.initialise kv ki).view = (n.initialise kv ki).view := rfl

/-- CONVERT reads group M where it is specified only: KV and KI under INITED = 1, and OVF_CNT (R174, R221). -/
theorem readingOf_congr {m n : Meter} (h : m.view = n.view) (oor : List Byte) (d : DecodedFields) :
    readingOf oor d m = readingOf oor d n := by
  have hkv : m.kvValue = n.kvValue := congrArg MeterView.kv h
  have hki : m.kiValue = n.kiValue := congrArg MeterView.ki h
  have hovf : (m.countOverflow d.ovf).ovfCnt = (n.countOverflow d.ovf).ovfCnt :=
    congrArg MeterView.ovfCnt (countOverflow_view_congr h d.ovf)
  simp only [readingOf, hkv, hki, hovf]

theorem readingOfFrame_congr {s t : State} (hmeter : s.meter.view = t.meter.view) (henv : s.env = t.env) (f : Frame) :
    s.readingOfFrame f = t.readingOfFrame f := by
  rw [State.readingOfFrame, State.readingOfFrame, henv, readingOf_congr hmeter]

theorem acceptFrame_meter_view_congr {s t : State} (hmeter : s.meter.view = t.meter.view) (henv : s.env = t.env)
    (f : Frame) : (s.acceptFrame f).meter.view = (t.acceptFrame f).meter.view := by
  simp only [State.acceptFrame_meter, view_hold, view_record, view_countOverflow, hmeter,
    readingOfFrame_congr hmeter henv]

/-! ### Two outcomes that look alike -/

theorem sameOutcome_cases {x y : Host.Outcome State Fault Refusal} (h : sameOutcome x y) :
    (∃ s t, x = .next s ∧ y = .next t ∧ s.view = t.view) ∨ (∃ r, x = .fault r ∧ y = .fault r) ∨
      ∃ r, x = .refused r ∧ y = .refused r := by
  cases x with
  | next s =>
    cases y with
    | next t => exact .inl ⟨s, t, rfl, rfl, h⟩
    | fault q => exact h.elim
    | refused q => exact h.elim
  | fault r =>
    cases y with
    | next t => exact h.elim
    | fault q => exact .inr (.inl ⟨r, rfl, congrArg _ (Eq.symm h)⟩)
    | refused q => exact h.elim
  | refused r =>
    cases y with
    | next t => exact h.elim
    | fault q => exact h.elim
    | refused q => exact .inr (.inr ⟨r, rfl, congrArg _ (Eq.symm h)⟩)

theorem sameOutcome_next {s t : State} (h : s.view = t.view) : sameOutcome (.next s) (.next t) := h

/-- A completed candidate, accepted or rejected (R117). -/
theorem complete_view_congr {s t : State} (h : s.view = t.view) (hc : s.sync.cnt = 23) (b : Byte) :
    (s.complete b).view = (t.complete b).view := by
  have hmeter := meter_view_of_view h
  have henv := env_of_view h
  have hcand := candidate_of_view (sync_view_of_view h) hc b
  have hstage : (s.complete b).stage = (t.complete b).stage := by rw [complete_stage, complete_stage]
  have henv' : (s.complete b).env = (t.complete b).env := by rw [complete_env, complete_env, henv]
  cases hv : validateFrame (s.candidate b) with
  | true =>
    have hv' : validateFrame (t.candidate b) = true := hcand ▸ hv
    refine State.view_eq ?_ ?_ ?_ hstage henv'
    · rw [complete_accept_sync hv, complete_accept_sync hv']
      exact toHunt_view_eq _ _
    · rw [complete_accept_meter hv, complete_accept_meter hv', hcand]
      exact acceptFrame_meter_view_congr hmeter henv _
    · rw [complete_accept_outs hv, complete_accept_outs hv', hcand, readingOfFrame_congr hmeter henv]
  | false =>
    have hv' : validateFrame (t.candidate b) = false := hcand ▸ hv
    refine State.view_eq ?_ ?_ ?_ hstage henv'
    · rw [complete_reject_sync hv, complete_reject_sync hv', hcand, reanchor_view_eq]
    · rw [complete_reject_meter hv, complete_reject_meter hv', hmeter]
    · rw [complete_reject_outs hv, complete_reject_outs hv']

/-- RXBYTE, arm by arm of R112: both states are in the same arm, for MODE, CNT and the window are in the view. -/
theorem receive_sameOutcome {s t : State} (h : s.view = t.view) (b : Byte) :
    sameOutcome (s.receive b) (t.receive b) := by
  have hsync := sync_view_of_view h
  have hmeter := meter_view_of_view h
  have henv := env_of_view h
  have hinited := inited_of_view h
  have hmode := mode_of_view hsync
  have hcnt := cnt_of_view hsync
  have hanchors : s.sync.anchors b = t.sync.anchors b := by
    rw [anchors_eq_window, anchors_eq_window, window_of_view hsync]
  have hend {g g' : Sync} (hg : g.view = g'.view) :
      (({ s with sync := g } : State).endCommand .none).view = (({ t with sync := g' } : State).endCommand .none).view :=
    endCommand_view_congr hg hmeter henv _ _
  rcases receive_cases s b with ⟨hi, e⟩ | ⟨hi, hm, ha, e⟩ | ⟨hi, hm, ha, e⟩ | ⟨hi, hm, hc, e⟩ | ⟨hi, hm, hc, e⟩ |
    ⟨hi, hm, hc, e⟩ <;> rw [e] <;> rw [hinited] at hi
  · rw [receive_uninit b hi]
    exact sameOutcome_next (hend hsync)
  · have hwin : some s.sync.winPrev = some t.sync.winPrev := by
      rw [← window_of_anchors ha, ← window_of_anchors (hanchors ▸ ha), window_of_view hsync]
    rw [receive_anchor hi (hmode ▸ hm) (hanchors ▸ ha)]
    refine sameOutcome_next (hend ?_)
    rw [view_anchor, view_anchor, Option.some.inj hwin]
  · rw [receive_slide hi (hmode ▸ hm) (hanchors ▸ ha)]
    refine sameOutcome_next (hend ?_)
    rw [view_slide, view_slide, hsync]
  · rw [receive_collect hi (hmode ▸ hm) (hcnt ▸ hc)]
    refine sameOutcome_next (hend ?_)
    rw [view_collect, view_collect, hsync]
  · rw [receive_complete b hi (hmode ▸ hm) (hcnt ▸ hc)]
    exact sameOutcome_next (complete_view_congr h hc b)
  · rw [receive_beyond b hi (hmode ▸ hm) (hcnt ▸ hc), hcnt]
    rfl

/-- FRAME's bytes one after another (R100): while they complete the views stay equal, and they stop at the same byte. -/
theorem stream_sameOutcome (bs : List Byte) {s t : State} (h : s.view = t.view) :
    sameOutcome (s.stream bs) (t.stream bs) := by
  induction bs generalizing s t with
  | nil =>
    have hsync := sync_view_of_view h
    have hmeter := meter_view_of_view h
    have henv := env_of_view h
    exact sameOutcome_next (State.view_eq hsync hmeter rfl rfl henv)
  | cons b bs ih =>
    rcases sameOutcome_cases (receive_sameOutcome h b) with ⟨s₁, t₁, hs, ht, h₁⟩ | ⟨r, hs, ht⟩ | ⟨r, hs, ht⟩
    · rcases sameOutcome_cases (ih h₁) with ⟨s₂, t₂, hs', ht', h₂⟩ | ⟨r, hs', ht'⟩ | ⟨r, hs', ht'⟩
      · rw [stream_cons_next bs hs hs', stream_cons_next bs ht ht']
        have hsync := sync_view_of_view h₂
        have hmeter := meter_view_of_view h₂
        have houts : s₁.outs ++ s₂.outs = t₁.outs ++ t₂.outs := by rw [outs_of_view h₁, outs_of_view h₂]
        have hstage := stage_of_view h₂
        have henv := env_of_view h₂
        exact sameOutcome_next (State.view_eq hsync hmeter houts hstage henv)
      · simp only [State.stream, hs, ht, hs', ht', sameOutcome]
      · simp only [State.stream, hs, ht, hs', ht', sameOutcome]
    · simp only [State.stream, hs, ht, sameOutcome]
    · simp only [State.stream, hs, ht, sameOutcome]

/-! ### Instructions and steps -/

theorem exec_init_eq (s : State) :
    exec .init s =
      if s.env.cfgKv = 0 ∨ s.env.cfgKi = 0 then .refused .zeroCalibration
      else .next (({ s with
        sync := s.sync.toHunt
        meter := s.meter.initialise s.env.cfgKv s.env.cfgKi } : State).endCommand .none) := rfl

theorem exec_sameOutcome (i : Instr) {s t : State} (h : s.view = t.view) : sameOutcome (exec i s) (exec i t) := by
  have hsync := sync_view_of_view h
  have hmeter := meter_view_of_view h
  have houts := outs_of_view h
  have hstage := stage_of_view h
  have henv := env_of_view h
  cases i with
  | idle => exact sameOutcome_next (endCommand_view_congr hsync hmeter henv _ _)
  | rxbyte b => exact receive_sameOutcome h b
  | flush =>
    rw [exec_flush, exec_flush, inited_of_view h]
    cases t.meter.inited with
    | true => exact sameOutcome_next (endCommand_view_congr (toHunt_view_eq _ _) hmeter henv _ _)
    | false => exact sameOutcome_next (endCommand_view_congr hsync hmeter henv _ _)
  | init =>
    rw [exec_init_eq, exec_init_eq, henv]
    split
    · rfl
    · have hinit := initialise_view_eq s.meter t.meter t.env.cfgKv t.env.cfgKi
      exact sameOutcome_next (State.view_eq (toHunt_view_eq _ _) hinit rfl rfl rfl)
  | validate f => exact sameOutcome_next (returning_view_congr h _)
  | reanchor f => exact sameOutcome_next (State.view_eq (reanchor_view_eq _ _ f) hmeter houts hstage henv)
  | accept f =>
    have hacc := acceptFrame_meter_view_congr hmeter henv f
    refine sameOutcome_next (State.view_eq hsync hacc ?_ hstage henv)
    rw [State.acceptFrame_outs, State.acceptFrame_outs, readingOfFrame_congr hmeter henv]
  | decode f => exact sameOutcome_next (returning_view_congr h _)
  | convert d =>
    have hconv : (s.convert d).view = (t.convert d).view :=
      have hovf := countOverflow_view_congr hmeter d.ovf
      State.view_eq hsync hovf houts hstage henv
    rw [exec_convert, exec_convert, readingOf_congr hmeter, henv]
    exact sameOutcome_next (returning_view_congr hconv _)
  | frame f => exact stream_sameOutcome f.toList h

/-- The port shows the same item to both states and takes it from both. -/
theorem fetch_of_view {s t : State} (h : s.view = t.view) : s.fetch = t.fetch := by
  rw [State.fetch, State.fetch, env_of_view h]

theorem presented_view_congr {s t : State} (h : s.view = t.view) : s.presented.view = t.presented.view := by
  have hsync := sync_view_of_view h
  have hmeter := meter_view_of_view h
  have houts := outs_of_view h
  have hstage := stage_of_view h
  have henv : s.presented.env = t.presented.env := by
    rw [State.presented_env, State.presented_env, env_of_view h, fetch_of_view h]
  exact State.view_eq hsync hmeter houts hstage henv

theorem hardwareReset_view_congr {s t : State} (h : s.view = t.view) : s.hardwareReset.view = t.hardwareReset.view :=
  have hmeter : s.hardwareReset.meter.view = t.hardwareReset.meter.view := rfl
  have henv := env_of_view h
  State.view_eq (toHunt_view_eq _ _) hmeter rfl rfl henv

theorem step_sameOutcome {s t : State} (h : s.view = t.view) : sameOutcome (step s) (step t) := by
  unfold step
  rw [fetch_of_view h]
  split
  · exact sameOutcome_next (hardwareReset_view_congr (presented_view_congr h))
  · exact exec_sameOutcome _ (presented_view_congr h)

/-- Settles O42: every operation's view depends on the view alone, instruction by instruction and for a step. -/
theorem unspecifiedNeverObserved : Obligations.UnspecifiedNeverObserved :=
  ⟨fun i _ _ h => exec_sameOutcome i h, fun _ _ h => step_sameOutcome h⟩

end Sys2Proof.Machine
end

section
/-! SUPPORT. What a completed candidate, the configuration inputs and the frame buffer each depend on: a candidate takes effect as a
whole (20_memory.md R67), only INIT samples the inputs (R72), and only RXBYTE, REANCHOR and FRAME store to FB (R66). -/

namespace Sys2Proof.Machine

/-! ### A candidate takes effect as a whole (R67, R214) -/

/-- An accepted frame is counted (R32, R194). -/
theorem acceptFrame_frameCnt_toNat (s : State) (f : Frame) :
    (s.acceptFrame f).meter.frameCnt.toNat = min (s.meter.frameCnt.toNat + 1) 0xFFFFFFFF := by
  rw [State.acceptFrame_meter, Meter.hold_frameCnt, record_frameCnt_toNat, countOverflow_frameCnt]

/-- LAST_CUM and the outputs come from one Reading (R194). -/
theorem acceptFrame_lastCum (s : State) (f : Frame) :
    (s.acceptFrame f).meter.lastCum = (s.readingOfFrame f).cumulativePulses := by
  rw [State.acceptFrame_meter, Meter.hold_lastCum, Meter.record_lastCum]

/-- Settles O13: the candidate is f, and the completing RXBYTE either accepts f or rejects it. -/
theorem candidateIsJudgedWhole : Obligations.CandidateIsJudgedWhole := by
  intro s b f hi hm hc hf
  have hcand : s.candidate b = f := candidate_eq hf
  refine ⟨s.complete b, receive_complete b hi hm hc, complete_env s b, ?_⟩
  split
  · next hvalid =>
    have hv : validateFrame (s.candidate b) = true := by rw [hcand, hvalid]
    rw [complete_accept_meter hv, complete_accept_sync hv, complete_accept_outs hv, hcand]
    exact ⟨rfl, rfl, acceptFrame_frameCnt_toNat _ f, rfl, rfl, rfl, s.readingOfFrame f, rfl, acceptFrame_lastCum _ f⟩
  · next hinvalid =>
    have hv : validateFrame (s.candidate b) = false := by rw [hcand, Bool.eq_false_iff.2 hinvalid]
    exact ⟨complete_reject_meter hv, complete_reject_outs hv⟩

/-! ### Only INIT samples the configuration inputs (R72)

Moving the levels of the two inputs commutes with every operation below. -/

theorem acceptFrame_withCfg (s : State) (kv ki : BitVec Config.kW) (f : Frame) :
    (s.withCfg kv ki).acceptFrame f = (s.acceptFrame f).withCfg kv ki := rfl

theorem endCommand_withCfg (s : State) (g : Sync) (kv ki : BitVec Config.kW) (c : OutcomeCode) :
    ({ s.withCfg kv ki with sync := g } : State).endCommand c =
      (({ s with sync := g } : State).endCommand c).withCfg kv ki := rfl

/-- The candidate stands in FB, which has no input in it. -/
theorem candidate_withCfg (s : State) (kv ki : BitVec Config.kW) (b : Byte) :
    (s.withCfg kv ki).candidate b = s.candidate b := rfl

theorem complete_withCfg (s : State) (kv ki : BitVec Config.kW) (b : Byte) :
    (s.withCfg kv ki).complete b = (s.complete b).withCfg kv ki := by
  cases hv : validateFrame (s.candidate b) with
  | true =>
    have hv' : validateFrame ((s.withCfg kv ki).candidate b) = true := by rw [candidate_withCfg, hv]
    have hacc := acceptFrame_withCfg { s with sync := s.sync.memWrite 23 b } kv ki (s.candidate b)
    rw [complete_accept hv, complete_accept hv', candidate_withCfg]
    exact congrArg (fun t : State => { t with sync := (s.sync.memWrite 23 b).toHunt, stage := .empty }) hacc
  | false =>
    have hv' : validateFrame ((s.withCfg kv ki).candidate b) = false := by rw [candidate_withCfg, hv]
    rw [complete_reject hv, complete_reject hv', candidate_withCfg]
    exact endCommand_withCfg s ((s.sync.memWrite 23 b).reanchor (s.candidate b)) kv ki .checksumInvalid

/-- RXBYTE, arm by arm of R112: no condition of an arm names an input. -/
theorem receive_withCfg (s : State) (kv ki : BitVec Config.kW) (b : Byte) :
    (s.withCfg kv ki).receive b = mapNext (fun t => t.withCfg kv ki) (s.receive b) := by
  rcases receive_cases s b with ⟨hi, e⟩ | ⟨hi, hm, ha, e⟩ | ⟨hi, hm, ha, e⟩ | ⟨hi, hm, hc, e⟩ | ⟨hi, hm, hc, e⟩ |
    ⟨hi, hm, hc, e⟩ <;> rw [e]
  · exact receive_uninit (s := s.withCfg kv ki) b hi
  · exact receive_anchor (s := s.withCfg kv ki) hi hm ha
  · exact receive_slide (s := s.withCfg kv ki) hi hm ha
  · exact receive_collect (s := s.withCfg kv ki) hi hm hc
  · rw [receive_complete (s := s.withCfg kv ki) b hi hm hc, complete_withCfg]
    rfl
  · exact receive_beyond (s := s.withCfg kv ki) b hi hm hc

theorem stream_withCfg (bs : List Byte) (s : State) (kv ki : BitVec Config.kW) :
    (s.withCfg kv ki).stream bs = mapNext (fun t => t.withCfg kv ki) (s.stream bs) := by
  induction bs generalizing s with
  | nil => rfl
  | cons b bs ih =>
    simp only [State.stream, receive_withCfg]
    cases s.receive b with
    | next s₁ =>
      simp only [mapNext, ih]
      cases s₁.stream bs <;> rfl
    | fault r => rfl
    | refused r => rfl

/-- Settles O22, instruction by instruction. -/
theorem onlyInitSamplesConfiguration : Obligations.OnlyInitSamplesConfiguration := by
  intro i s kv ki hi
  cases i with
  | idle => rfl
  | rxbyte b => exact receive_withCfg s kv ki b
  | flush => rfl
  | init => exact absurd rfl hi
  | validate f => rfl
  | reanchor f => rfl
  | accept f => exact congrArg Host.Outcome.next (acceptFrame_withCfg s kv ki f)
  | decode f => rfl
  | convert d => rfl
  | frame f => exact stream_withCfg f.toList s kv ki

/-! ### The instructions that store nothing (R66) -/

/-- FLUSH empties the candidate by CNT alone (R121). -/
theorem exec_flush_fb {s t : State} (h : exec .flush s = .next t) : t.sync.fb = s.sync.fb := by
  obtain rfl := Host.Outcome.next.inj h
  rw [State.endCommand_sync]
  cases s.meter.inited <;> rfl

/-- INIT empties the candidate by CNT alone too (R171). -/
theorem exec_init_fb {s t : State} (h : exec .init s = .next t) : t.sync.fb = s.sync.fb := by
  rcases exec_init_cases s with ⟨-, e⟩ | ⟨-, -, e⟩ <;> rw [e] at h
  · cases h
  · obtain rfl := Host.Outcome.next.inj h
    exact Sync.toHunt_fb s.sync

/-- Settles O18: the store itself stays, instruction by instruction, and so does what every offset reads. -/
theorem nothingElseStores : Obligations.NothingElseStores := by
  intro i s t hi h a
  have hfb : t.sync.fb = s.sync.fb := by
    rcases hi with rfl | rfl | rfl | ⟨f, rfl⟩ | ⟨f, rfl⟩ | ⟨f, rfl⟩ | ⟨d, rfl⟩
    · obtain rfl := Host.Outcome.next.inj h; rfl
    · exact exec_flush_fb h
    · exact exec_init_fb h
    · obtain rfl := Host.Outcome.next.inj h; rfl
    · obtain rfl := Host.Outcome.next.inj h; rfl
    · obtain rfl := Host.Outcome.next.inj h; rfl
    · obtain rfl := Host.Outcome.next.inj h; rfl
  rw [hfb]

end Sys2Proof.Machine
end

section
/-! SUPPORT. The words of the port and the byte strings that stand for them, in both directions (30_encoding.md R80, R86 to R90, R95,
R96, R101). -/

namespace Sys2Proof

open Sys2Proof.Machine

/-! ### Command words (R86 to R90) -/

/-- The four values of op (R86). -/
theorem op_cases : ∀ op : BitVec 2, op = 0 ∨ op = 1 ∨ op = 2 ∨ op = 3 := by decide

/-- op selects the command, and only RXBYTE looks at data (R95, R101). -/
theorem decodeCommand_append (op : BitVec 2) (data : Byte) :
    decodeCommand (op ++ data) =
      if op = 0 then .idle else if op = 1 then .rxbyte data else if op = 2 then .flush else .init := by
  rw [decodeCommand, opOf_append, dataOf_append]
  rcases op_cases op with rfl | rfl | rfl | rfl <;> rfl

/-- Settles O3. -/
theorem everyCommandWordDecodes : Obligations.EveryCommandWordDecodes := fun data =>
  ⟨decodeCommand_append 0 data, decodeCommand_append 1 data, decodeCommand_append 2 data, decodeCommand_append 3 data⟩

/-- The word that RXBYTE and the stage functions share (R88, R101). -/
theorem decode_rxbyteWord (b : Byte) : decode (commandBytes 1 b) = .ok (.rxbyte b) := by
  rw [decode_commandBytes, decodeCommand_append]
  rfl

/-- Settles O1, instruction by instruction: a stage function's word is the RXBYTE of its frame's last byte. -/
theorem decodeOfEncode : Obligations.DecodeOfEncode := by
  intro i _
  cases i with
  | idle => exact congrArg some (decode_commandBytes 0 0)
  | rxbyte b => exact congrArg some (decode_rxbyteWord b)
  | flush => exact congrArg some (decode_commandBytes 2 0)
  | init => exact congrArg some (decode_commandBytes 3 0)
  | validate f => exact congrArg some (decode_rxbyteWord f[23])
  | reanchor f => exact congrArg some (decode_rxbyteWord f[23])
  | accept f => exact congrArg some (decode_rxbyteWord f[23])
  | decode f => exact congrArg some (decode_rxbyteWord f[23])
  | convert d => rfl
  | frame f => exact congrArg some (decode_toList f)

/-! ### Byte strings that stand for a word -/

theorem frameOfList_toList (bytes : List Byte) (h : bytes.length = 24) : (frameOfList bytes h).toList = bytes := rfl

/-- A second byte without a bit above bit 9 holds op alone (R86; log entry 5). -/
theorem setWidth_extractLsb'_of_lt {hi : Byte} (h : hi.toNat < 4) : (hi.extractLsb' 0 2).setWidth 8 = hi := by
  apply BitVec.eq_of_toNat_eq
  rw [BitVec.toNat_setWidth, BitVec.extractLsb'_toNat, Nat.shiftRight_zero]
  omega

/-- A byte string that stands for a word of the port is a command word's two bytes or a frame's 24 (R86, R98). -/
theorem portWord_cases {bytes : List Byte} {word : PortWord} (h : portWord bytes = .ok word) :
    (∃ op data, bytes = commandBytes op data ∧ word = .command (op ++ data)) ∨
      ∃ f : Frame, bytes = f.toList ∧ word = .frame f := by
  unfold portWord at h
  split at h
  · next lo hi =>
    split at h
    · next hlt =>
      refine .inl ⟨hi.extractLsb' 0 2, lo, ?_, (Except.ok.inj h).symm⟩
      rw [commandBytes, setWidth_extractLsb'_of_lt hlt]
    · cases h
  · split at h
    · next hlen => exact .inr ⟨frameOfList bytes hlen, (frameOfList_toList bytes hlen).symm, (Except.ok.inj h).symm⟩
    · cases h

/-- What decodes is what the port runs for the word the bytes stand for. -/
theorem portWord_of_decode {bytes : List Byte} {i : Instr} (h : decode bytes = .ok i) :
    ∃ word, portWord bytes = .ok word ∧ i = decodeWord word := by
  rw [decode] at h
  cases hw : portWord bytes with
  | error e => rw [hw] at h; cases h
  | ok word => rw [hw] at h; exact ⟨word, rfl, (Except.ok.inj h).symm⟩

/-- The encoding of what a command word decodes to: the word itself, or for a command without operand the word with data 0 (R99). -/
theorem encode_decodeCommand_append (op : BitVec 2) (data : Byte) :
    (decodeCommand (op ++ data) = .rxbyte data ∧
      encode (decodeCommand (op ++ data)) = some (commandBytes op data)) ∨
    ((decodeCommand (op ++ data) = .idle ∨ decodeCommand (op ++ data) = .flush ∨
        decodeCommand (op ++ data) = .init) ∧
      encode (decodeCommand (op ++ data)) = some (commandBytes op 0)) := by
  rw [decodeCommand_append]
  rcases op_cases op with rfl | rfl | rfl | rfl
  · exact .inr ⟨.inl rfl, rfl⟩
  · exact .inl ⟨rfl, rfl⟩
  · exact .inr ⟨.inr (.inl rfl), rfl⟩
  · exact .inr ⟨.inr (.inr rfl), rfl⟩

/-- Settles O2, by the two forms of a word of the port. -/
theorem encodeOfDecode : Obligations.EncodeOfDecode := by
  intro bs i h
  obtain ⟨word, hword, rfl⟩ := portWord_of_decode h
  refine ⟨decodeWord_wf word, ?_⟩
  obtain ⟨op, data, rfl, rfl⟩ | ⟨f, rfl, rfl⟩ := portWord_cases hword
  · obtain ⟨hrx, henc⟩ | ⟨hcmd, henc⟩ := encode_decodeCommand_append op data
    · exact .inl ⟨data, hrx, henc⟩
    · exact .inr (.inr ⟨hcmd, data, op.setWidth 8, rfl, henc⟩)
  · exact .inr (.inl ⟨f, rfl, rfl⟩)

/-! ### Table words (R99) -/

theorem decodeTableWord_of_command {nbits w : Nat} {op : BitVec 2} {data : Byte}
    (h : tableBytes nbits w = commandBytes op data) : decodeTableWord nbits w = some (decodeCommand (op ++ data)) := by
  rw [decodeTableWord, h, decode_commandBytes]
  rfl

theorem decodeTableWord_of_frame {nbits w : Nat} {f : Frame} (h : tableBytes nbits w = f.toList) :
    decodeTableWord nbits w = some (.frame f) := by
  rw [decodeTableWord, h, decode_toList]
  rfl

/-- Settles O4: each table word is laid out in the bytes of its command word or of S1. -/
theorem writtenWordsDecode : Obligations.WrittenWordsDecode :=
  ⟨decodeTableWord_of_command (op := 0) (data := 0) (by decide),
    decodeTableWord_of_command (op := 1) (data := 0x5A) (by decide),
    decodeTableWord_of_command (op := 2) (data := 0) (by decide),
    decodeTableWord_of_command (op := 3) (data := 0) (by decide),
    decodeTableWord_of_frame (by decide)⟩

end Sys2Proof
end

section
/-! SUPPORT. The output pins (30_encoding.md R93). -/

namespace Sys2Proof.Machine

theorem outcomeCode_pins (c : OutcomeCode) :
    c.pins = match c with | .none => 0 | .reading => 1 | .incomplete => 2 | .checksumInvalid => 3 := by
  cases c <;> rfl

theorem output_pins_outcome (o : Output) : o.pins.outcome = o.code.pins := by
  unfold Output.pins
  split <;> rfl

/-- A quantity beside its valid bit: its value, or zeros where it has none (R93). -/
theorem driven_or_zero {w : Nat} (x : Option (BitVec w)) :
    if x.isSome then x = some (x.getD 0) else x = none ∧ x.getD 0 = 0 := by
  cases x with
  | none => exact ⟨rfl, rfl⟩
  | some v => rfl

/-- Settles O48: the outcome's number whatever the Reading is, then the quantities with a Reading and without one. -/
theorem outputPinsDriven : Obligations.OutputPinsDriven := by
  intro o
  refine ⟨(output_pins_outcome o).trans (outcomeCode_pins o.code), ?_⟩
  obtain ⟨code, reading⟩ := o
  cases reading with
  | none => exact ⟨rfl, rfl, rfl, rfl, rfl, rfl, rfl, rfl, rfl, rfl, rfl⟩
  | some r =>
    exact ⟨driven_or_zero r.voltage, driven_or_zero r.current, driven_or_zero r.activePower,
      driven_or_zero r.apparentPower, driven_or_zero r.powerFactor, rfl⟩

end Sys2Proof.Machine
end

section
/-! SUPPORT. FRAME as its 24 bytes (30_encoding.md R96, R100), and what they do in a hunting block with an empty window
(40_synchronizer.md R114 to R120). -/

namespace Sys2Proof.Machine

/-! ### FRAME and a run of RXBYTE commands (R100) -/

/-- No RXBYTE leaves a stage function's value behind (log entry 10). -/
theorem receive_stage {s t : State} {b : Byte} (h : s.receive b = .next t) : t.stage = .empty := by
  rcases receive_next_cases h with ⟨_, rfl⟩ | ⟨_, _, _, rfl⟩ | ⟨_, _, _, rfl⟩ | ⟨_, _, _, rfl⟩ | ⟨_, _, _, rfl⟩
  · rfl
  · rfl
  · rfl
  · rfl
  · exact complete_stage s b

theorem runBytes_cons_iff {b : Byte} {bs : List Byte} {s u : State} {os : List Output} :
    runBytes (b :: bs) s = some (os, u) ↔
      ∃ s₁ os₁, s.receive b = .next s₁ ∧ runBytes bs s₁ = some (os₁, u) ∧ os = s₁.outs ++ os₁ := by
  simp only [runBytes, List.map_cons, runCommands, exec_rxbyte]
  cases s.receive b with
  | next s₁ => simp [eq_comm]
  | fault r => simp
  | refused r => simp

theorem stream_cons_iff {b : Byte} {bs : List Byte} {s t : State} :
    s.stream (b :: bs) = .next t ↔
      ∃ s₁ t₁, s.receive b = .next s₁ ∧ s₁.stream bs = .next t₁ ∧ t = { t₁ with outs := s₁.outs ++ t₁.outs } := by
  refine ⟨stream_cons_inv, ?_⟩
  rintro ⟨s₁, t₁, h₁, h₂, rfl⟩
  exact stream_cons_next bs h₁ h₂

/-- STREAM is the run of its bytes with all their outputs; the empty one too, where no stage value stands. -/
theorem stream_iff_runBytes {bs : List Byte} {s t : State} (h : s.stage = .empty ∨ bs ≠ []) :
    s.stream bs = .next t ↔ ∃ u, runBytes bs s = some (t.outs, u) ∧ t = { u with outs := t.outs } := by
  induction bs generalizing s t with
  | nil =>
    have hstage : s.stage = .empty := h.resolve_right (· rfl)
    rw [stream_nil, ← hstage]
    constructor
    · rintro ⟨⟩
      exact ⟨s, rfl, rfl⟩
    · rintro ⟨u, hrun, ht⟩
      obtain ⟨houts, rfl⟩ := Prod.mk.inj (Option.some.inj hrun)
      rw [ht, ← houts]
  | cons b bs ih =>
    rw [stream_cons_iff]
    constructor
    · rintro ⟨s₁, t₁, h₁, h₂, rfl⟩
      obtain ⟨u, hrun, ht⟩ := (ih (.inl (receive_stage h₁))).1 h₂
      exact ⟨u, runBytes_cons_iff.2 ⟨s₁, t₁.outs, h₁, hrun, rfl⟩, by rw [ht]⟩
    · rintro ⟨u, hrun, ht⟩
      obtain ⟨s₁, os₁, h₁, hrun₁, houts⟩ := runBytes_cons_iff.1 hrun
      have h₂ := (ih (t := { u with outs := os₁ }) (.inl (receive_stage h₁))).2 ⟨u, hrun₁, rfl⟩
      exact ⟨s₁, _, h₁, h₂, by rw [ht, houts]⟩

theorem frame_toList_ne_nil (f : Frame) : f.toList ≠ [] := by
  rw [← List.length_pos_iff, Vector.length_toList]
  decide

/-- Settles O43. -/
theorem frameIsItsBytes : Obligations.FrameIsItsBytes :=
  fun f _ _ => stream_iff_runBytes (.inr (frame_toList_ne_nil f))

/-! ### Bytes that report nothing -/

/-- The last byte of a candidate goes to offset 23 alone (R117). -/
theorem read_memWrite_last_of_ne (g : Sync) (b : Byte) {k : Nat} (hk : k ≠ 23) :
    (g.memWrite 23 b).fb.read k = g.fb.read k := by
  rw [Sync.memWrite_fb, Memory.read_write]
  exact if_neg hk

/-- No RXBYTE stores above offset 23 (R45). -/
theorem receive_fb_beyond {s t : State} {b : Byte} (h : s.receive b = .next t) {k : Nat} (hk : 24 ≤ k) :
    t.sync.fb.read k = s.sync.fb.read k := by
  have hlast := read_memWrite_last_of_ne s.sync b (show k ≠ 23 by omega)
  rcases receive_next_cases h with ⟨_, rfl⟩ | ⟨_, _, _, rfl⟩ | ⟨_, _, _, rfl⟩ | ⟨_, _, hc, rfl⟩ | ⟨_, _, _, rfl⟩
  · rfl
  · rw [State.endCommand_sync, Sync.anchor_fb, Memory.read_write, Memory.read_write, if_neg (by omega),
      if_neg (by omega)]
  · rfl
  · rw [State.endCommand_sync, Sync.collect_fb, Memory.read_write, if_neg (by omega)]
  · cases hv : validateFrame (s.candidate b) with
    | true => rw [complete_accept_sync hv, Sync.toHunt_fb, hlast]
    | false =>
      rw [complete_reject_sync hv]
      cases hF : firstMarker (s.candidate b) with
      | none => rw [reanchor_none hF]; exact hlast
      | some j => rw [read_reanchor_some hF, dif_neg (by omega), hlast]

/-- The bytes bs take s to t with NONE for each of them, group M untouched; what follows them runs from t. -/
structure QuietRun (bs : List Byte) (s t : State) : Prop where
  meter : t.meter = s.meter
  env : t.env = s.env
  beyond : ∀ k, 24 ≤ k → t.sync.fb.read k = s.sync.fb.read k
  stream : ∀ (cs : List Byte) (u : State), t.stream cs = .next u →
    s.stream (bs ++ cs) = .next { u with outs := List.replicate bs.length ⟨.none, none⟩ ++ u.outs }

theorem QuietRun.nil (s : State) : QuietRun [] s s :=
  ⟨rfl, rfl, fun _ _ => rfl, fun _ _ h => h⟩

theorem QuietRun.cons {s s₁ t : State} {b : Byte} {bs : List Byte} (h : s.receive b = .next s₁)
    (hmeter : s₁.meter = s.meter) (houts : s₁.outs = [⟨.none, none⟩]) (hrest : QuietRun bs s₁ t) :
    QuietRun (b :: bs) s t where
  meter := hrest.meter.trans hmeter
  env := hrest.env.trans (receive_env h)
  beyond k hk := (hrest.beyond k hk).trans (receive_fb_beyond h hk)
  stream cs u hu := by
    rw [List.cons_append, stream_cons_next _ h (hrest.stream cs u hu), houts]
    rfl

/-- Up to 23 bytes of a stream complete no candidate, so they report nothing (R117, R125). -/
theorem quietRun_of_tracks (bs : List Byte) {P : List Byte} {s : State} (hi : s.meter.inited = true)
    (hP : Tracks P s.sync) (hlen : P.length + bs.length ≤ 23) :
    ∃ t, Tracks (P ++ bs) t.sync ∧ QuietRun bs s t := by
  induction bs generalizing P s with
  | nil => exact ⟨s, by rwa [List.append_nil], .nil s⟩
  | cons b bs ih =>
    rw [List.length_cons] at hlen
    have hno (q : Nat) (hq : LiveAnchor P q) : P.length ≠ q + 22 := by
      have := hq.1
      omega
    obtain ⟨s₁, h₁, hP₁, hmeter, houts⟩ | ⟨q, hq, hfull, -⟩ := tracks_receive b hi hP
    · obtain houts | ⟨-, q, hq, hfull⟩ := houts
      · have hlen₁ : (P ++ [b]).length + bs.length ≤ 23 := by
          rw [List.length_append, List.length_singleton]
          omega
        obtain ⟨t, ht, hquiet⟩ := ih (hmeter ▸ hi) hP₁ hlen₁
        rw [List.append_assoc, List.singleton_append] at ht
        exact ⟨t, ht, .cons h₁ hmeter houts hquiet⟩
      · exact absurd hfull (hno q hq)
    · exact absurd hfull (hno q hq)

/-! ### The 24 bytes of a frame -/

theorem frame_toList_eq_take_append (f : Frame) : f.toList = f.toList.take 23 ++ [f[23]] := by
  have hlen : f.toList.length = 24 := Vector.length_toList
  have hlast : f[23] = f.toList[23] := (Vector.getElem_toList _).symm
  rw [hlast, List.take_append_getElem, List.take_of_length_le hlen.le]

theorem length_take_frame (f : Frame) : (f.toList.take 23).length = 23 := by simp

theorem take_frame_getElem? (f : Frame) {k : Nat} (hk : k < 23) : (f.toList.take 23)[k]? = some f[k] := by
  rw [List.getElem?_take_of_lt hk, List.getElem?_eq_getElem (by simp; omega), Vector.getElem_toList]

/-- The one candidate the last byte of a frame can complete is the frame itself, anchored at offset 1. -/
theorem liveAnchor_take_frame_full {f : Frame} {q : Nat} (h : LiveAnchor (f.toList.take 23) q)
    (hfull : (f.toList.take 23).length = q + 22) : f[1] = Config.syncMarker := by
  rw [length_take_frame] at hfull
  obtain rfl : q = 1 := by omega
  obtain ⟨-, -, hm⟩ := h
  rw [take_frame_getElem? f (by decide)] at hm
  exact Option.some.inj hm

/-- With the marker at offset 1 the first 23 bytes stand in FB from offset 0 on (R114, R116). -/
theorem tracks_take_frame_of_marker {f : Frame} {g : Sync} (hm : f[1] = Config.syncMarker)
    (h : Tracks (f.toList.take 23) g) :
    g.mode = .collect ∧ g.cnt = 23 ∧ ∀ (k : Nat) (hk : k < 23), f[k] = g.fb.read k := by
  have hlive : LiveAnchor (f.toList.take 23) 1 := by
    refine ⟨le_rfl, (length_take_frame f).le, ?_⟩
    rw [take_frame_getElem? f (by decide), hm]
  obtain ⟨-, -, -, hno⟩ | ⟨q, hq, hleast, hmode, -, hcnt, hheld⟩ := h
  · exact absurd hlive (hno 1)
  · have h1 : 1 ≤ q := hq.1
    obtain rfl : q = 1 := by
      by_contra hne
      exact hleast 1 (by omega) hlive
    rw [length_take_frame] at hcnt hheld
    refine ⟨hmode, BitVec.eq_of_toNat_eq hcnt, fun k hk => ?_⟩
    have hk' := hheld k hk
    rw [Nat.sub_self, Nat.zero_add, take_frame_getElem? f hk] at hk'
    exact Option.some.inj hk'

/-- In a hunting block with an empty window the last byte of a frame runs where the first 23 have led, and decides the FRAME. -/
theorem exec_frame_of_hunt (f : Frame) {s : State} (hi : s.meter.inited = true) (hm : s.sync.mode = .hunt)
    (hw : s.sync.winValid = false) :
    ∃ s₁, Tracks (f.toList.take 23) s₁.sync ∧ QuietRun (f.toList.take 23) s s₁ ∧
      ∀ t, s₁.receive f[23] = .next t → ∃ u, exec (.frame f) s = .next u ∧ u.sync = t.sync ∧ u.meter = t.meter ∧
        u.outs = List.replicate 23 ⟨.none, none⟩ ++ t.outs := by
  obtain ⟨s₁, htracks, hquiet⟩ :=
    quietRun_of_tracks (f.toList.take 23) hi (tracks_nil hm hw) (by simp)
  refine ⟨s₁, htracks, hquiet, fun t ht => ?_⟩
  have hrun := hquiet.stream [f[23]] _ (stream_cons_next [] ht (stream_nil t))
  rw [← frame_toList_eq_take_append, length_take_frame, List.append_nil] at hrun
  exact ⟨_, hrun, rfl, rfl, rfl⟩

/-- With the marker at offset 1 the last byte completes the frame as the candidate (R117). -/
theorem exec_frame_of_marker {f : Frame} {s : State} (hi : s.meter.inited = true) (hm : s.sync.mode = .hunt)
    (hw : s.sync.winValid = false) (hmark : f[1] = Config.syncMarker) :
    ∃ s₁ t, QuietRun (f.toList.take 23) s s₁ ∧ s₁.candidate f[23] = f ∧ exec (.frame f) s = .next t ∧
      t.sync = (s₁.complete f[23]).sync ∧ t.meter = (s₁.complete f[23]).meter ∧
      t.outs = List.replicate 23 ⟨.none, none⟩ ++ (s₁.complete f[23]).outs := by
  obtain ⟨s₁, htracks, hquiet, hlast⟩ := exec_frame_of_hunt f hi hm hw
  obtain ⟨hmode, hcnt, hheld⟩ := tracks_take_frame_of_marker hmark htracks
  have hi₁ : s₁.meter.inited = true := by rw [hquiet.meter, hi]
  obtain ⟨t, ht⟩ := hlast _ (receive_complete _ hi₁ hmode hcnt)
  refine ⟨s₁, t, hquiet, candidate_eq fun k hk => ?_, ht⟩
  split
  · next h23 => subst h23; rfl
  · exact hheld k (by omega)

/-- Without the marker at offset 1 a frame is no candidate: all 24 bytes report NONE (R83, R96). -/
theorem exec_frame_of_no_marker {f : Frame} {s : State} (hi : s.meter.inited = true) (hm : s.sync.mode = .hunt)
    (hw : s.sync.winValid = false) (hmark : f[1] ≠ Config.syncMarker) :
    ∃ t, exec (.frame f) s = .next t ∧ t.outs = List.replicate 24 ⟨.none, none⟩ ∧ t.meter = s.meter := by
  obtain ⟨s₁, htracks, hquiet, hlast⟩ := exec_frame_of_hunt f hi hm hw
  have hi₁ : s₁.meter.inited = true := by rw [hquiet.meter, hi]
  obtain ⟨t, ht, -, hmeter, houts⟩ | ⟨q, hq, hfull, -⟩ := tracks_receive f[23] hi₁ htracks
  · obtain houts | ⟨-, q, hq, hfull⟩ := houts
    · obtain ⟨u, hexec, -, humeter, huouts⟩ := hlast t ht
      exact ⟨u, hexec, by rw [huouts, houts]; rfl, by rw [humeter, hmeter, hquiet.meter]⟩
    · exact absurd (liveAnchor_take_frame_full hq hfull) hmark
  · exact absurd (liveAnchor_take_frame_full hq hfull) hmark

/-- ACCEPT's outcome is READING or INCOMPLETE (R191, R211). -/
theorem code_isAcceptance (r : Reading) : Output.isAcceptance ⟨r.code, some r⟩ = true := by
  unfold Reading.code
  split <;> rfl

/-- ACCEPT reads group M and the strap alone (R173, R174). -/
theorem acceptFrame_meter_congr {s t : State} (hmeter : s.meter = t.meter) (henv : s.env = t.env) (f : Frame) :
    (s.acceptFrame f).meter = (t.acceptFrame f).meter := by
  rw [State.acceptFrame_meter, State.acceptFrame_meter, hmeter, readingOfFrame_congr (by rw [hmeter]) henv]

/-- Settles O44: the first 23 bytes report nothing, and the last one completes the frame and accepts it. -/
theorem frameIsAccepted : Obligations.FrameIsAccepted := by
  intro f s hi hm hw hmark hvalid
  obtain ⟨s₁, t, hquiet, hcand, hexec, hsync, hmeter, houts⟩ := exec_frame_of_marker hi hm hw hmark
  have hv : validateFrame (s₁.candidate f[23]) = true := by rw [hcand, hvalid]
  have hreading : s₁.readingOfFrame f = s.readingOfFrame f :=
    readingOfFrame_congr (by rw [hquiet.meter]) hquiet.env f
  have hacc : t.meter = (s.acceptFrame f).meter := by
    rw [hmeter, complete_accept_meter hv, hcand]
    exact acceptFrame_meter_congr hquiet.meter hquiet.env f
  have hhunt : t.sync = (s₁.sync.memWrite 23 f[23]).toHunt := by rw [hsync, complete_accept_sync hv]
  refine ⟨t, s.acceptFrame f, _, hexec, exec_accept f s, hacc, ?_, s.acceptFrame_outs f, ?_, code_isAcceptance _, ?_, ?_,
    ?_, ?_, ?_, stream_env hexec⟩
  · rw [hacc]
    rfl
  · rw [houts, complete_accept_outs hv, hcand, hreading]
  · intro k hk
    have hbyte : (s₁.candidate f[23])[k] = f[k] := by simp only [hcand]
    rw [hhunt, Sync.toHunt_fb, ← hbyte]
    exact (frame_getElem _ k hk).symm
  · intro k hk
    rw [hhunt, Sync.toHunt_fb, read_memWrite_last_of_ne _ _ (by omega), hquiet.beyond k hk]
  · rw [hhunt, Sync.toHunt_mode]
  · rw [hhunt, Sync.toHunt_cnt]
  · rw [hhunt, Sync.toHunt_winValid]

/-- Settles O49: no candidate, the frame accepted, or the frame rejected. -/
theorem anyFrameBytesRun : Obligations.AnyFrameBytesRun := by
  intro f s hi hm hw
  by_cases hmark : f[1] = Config.syncMarker
  · cases hvalid : validateFrame f with
    | true =>
      obtain ⟨t, a, o, hexec, hacc, hmeter, -, -, houts, hcode, -, -, -, -, -, henv⟩ :=
        frameIsAccepted f s hi hm hw hmark hvalid
      obtain rfl := Host.Outcome.next.inj hacc
      refine ⟨t, _, hexec, exec_reanchor f s, henv, fun _ _ => ⟨o, houts, hcode, by rw [hmeter]; rfl⟩, ?_, ?_⟩
      · exact fun _ h => nomatch h
      · exact fun h => absurd hmark h
    | false =>
      obtain ⟨s₁, t, hquiet, hcand, hexec, hsync, hmeter, houts⟩ := exec_frame_of_marker hi hm hw hmark
      have hv : validateFrame (s₁.candidate f[23]) = false := by rw [hcand, hvalid]
      refine ⟨t, _, hexec, exec_reanchor f s, stream_env hexec, ?_, fun _ _ => ⟨?_, ?_, ?_⟩, ?_⟩
      · exact fun _ h => nomatch h
      · rw [houts, complete_reject_outs hv]
      · rw [hmeter, complete_reject_meter hv, hquiet.meter]
      · rw [hsync, complete_reject_sync hv, hcand]
        exact reanchor_view_eq _ _ f
      · exact fun h => absurd hmark h
  · obtain ⟨t, hexec, houts, hmeter⟩ := exec_frame_of_no_marker hi hm hw hmark
    exact ⟨t, _, hexec, exec_reanchor f s, stream_env hexec, fun h => absurd h hmark, fun h => absurd h hmark,
      fun _ => ⟨houts, hmeter⟩⟩

end Sys2Proof.Machine
end

section
/-! SUPPORT. The Synchronizer's commands one by one (40_synchronizer.md R111 to R123): what RXBYTE does in each arm of R112, REANCHOR
and FLUSH, and the table of the transitions of (MODE, CNT) with their outcomes. -/

namespace Sys2Proof.Machine

/-! ### RXBYTE in HUNT (R113 to R115) -/

/-- An anchor is a marker with a byte before it (R114, R115). -/
theorem anchors_iff (g : Sync) (b : Byte) : g.anchors b = true ↔ g.winValid = true ∧ b = Config.syncMarker := by
  rw [Sync.anchors, Bool.and_eq_true, beq_iff_eq]

theorem anchors_eq_false {g : Sync} {b : Byte} (h : ¬ (g.winValid = true ∧ b = Config.syncMarker)) :
    g.anchors b = false :=
  Bool.eq_false_iff.2 (mt (anchors_iff g b).1 h)

/-- Settles O9. -/
theorem rxbyteHuntsOn : Obligations.RxbyteHuntsOn := by
  intro s b hi hm hno
  have hanchors : s.sync.anchors b = false := by
    refine anchors_eq_false fun ⟨hw, hb⟩ => ?_
    obtain hempty | hother := hno
    · exact Bool.false_ne_true (hempty.symm.trans hw)
    · exact hother hb
  exact receive_slide hi hm hanchors

/-- Settles O10. -/
theorem rxbyteAnchors : Obligations.RxbyteAnchors := by
  intro s b hi hm hw hb
  refine ⟨_, receive_anchor hi hm ((anchors_iff _ _).2 ⟨hw, hb⟩), rfl, rfl, rfl, ?_, ?_, fun a ha0 ha1 => ?_, rfl, rfl, rfl⟩
  · simp
  · simp [hb]
  · simp [ha0, ha1]

/-! ### RXBYTE in COLLECT (R116, R117) -/

/-- CNT counts on without a wrap (R22, R116). -/
theorem collect_cnt_toNat (g : Sync) (b : Byte) (hc : g.cnt.toNat < 23) : (g.collect b hc).cnt.toNat = g.cnt.toNat + 1 := by
  rw [Sync.collect_cnt, BitVec.toNat_add, show (1 : BitVec 5).toNat = 1 from rfl]
  omega

/-- Settles O11. -/
theorem rxbyteCollects : Obligations.RxbyteCollects := by
  intro s b hi hm hc
  refine ⟨_, receive_collect hi hm hc, hm, collect_cnt_toNat _ b hc, rfl, rfl, ?_, fun a ha => ?_, rfl, rfl, rfl⟩
  · simp
  · simp [ha]

/-- Settles O12: the candidate is f, and VALIDATE's verdict on it selects the stage function that runs next. -/
theorem rxbyteCompletesByStages : Obligations.RxbyteCompletesByStages := by
  intro s b f hi hm hc hf
  have hcand : s.candidate b = f := candidate_eq hf
  refine ⟨validateFrame f, _, _, _, exec_validate f _, rfl, exec_accept f _, exec_reanchor f _, ?_⟩
  rw [exec_rxbyte, receive_complete b hi hm hc]
  cases hvalid : validateFrame f with
  | true =>
    rw [complete_accept (hcand ▸ hvalid), hcand]
    rfl
  | false =>
    rw [complete_reject (hcand ▸ hvalid), hcand]
    rfl

/-! ### REANCHOR (R118) -/

theorem firstMarker_eq_none {f : Frame} (h : ∀ (j : Nat) (hj : j < 24), 2 ≤ j → f[j] ≠ Config.syncMarker) :
    firstMarker f = none := by
  cases hF : firstMarker f with
  | none => rfl
  | some j =>
    obtain ⟨hj, hj2, hjm, -⟩ := firstMarker_some hF
    exact absurd hjm (h j hj hj2)

/-- The bytes from the one before the marker to the last one are held (R118). -/
theorem reanchor_cnt_toNat {f : Frame} {j : Nat} (h : firstMarker f = some j) (g : Sync) :
    (g.reanchor f).cnt.toNat = 25 - j := by
  obtain ⟨-, hj2, -, -⟩ := firstMarker_some h
  rw [reanchor_some h, BitVec.toNat_ofNat]
  omega

theorem reanchor_mode_of_some {f : Frame} {j : Nat} (h : firstMarker f = some j) (g : Sync) :
    (g.reanchor f).mode = .collect := by
  rw [reanchor_some h]

theorem reanchor_winValid_of_some {f : Frame} {j : Nat} (h : firstMarker f = some j) (g : Sync) :
    (g.reanchor f).winValid = false := by
  rw [reanchor_some h]

/-- Settles O15. -/
theorem reanchorRescans : Obligations.ReanchorRescans := by
  intro s f
  refine ⟨_, exec_reanchor f s, rfl, rfl, rfl, fun j hj hj2 hjm hleast => ?_, fun hno => ?_⟩
  · have hF : firstMarker f = some j := firstMarker_eq_some hj hj2 hjm hleast
    refine ⟨reanchor_mode_of_some hF _, reanchor_cnt_toNat hF _, reanchor_winValid_of_some hF _, fun a ha => ?_, fun a ha => ?_⟩
    · rw [read_reanchor_some hF, dif_pos (by omega)]
    · rw [read_reanchor_some hF, dif_neg (by omega)]
  · rw [reanchor_none (firstMarker_eq_none hno)]
    exact ⟨rfl, rfl, rfl, rfl, fun _ => rfl⟩

/-! ### FLUSH (R121) -/

theorem exec_flush_of_inited {s : State} (hi : s.meter.inited = true) :
    exec .flush s = .next (({ s with sync := s.sync.toHunt } : State).endCommand .none) := by
  rw [exec_flush, if_pos hi]

theorem exec_flush_of_uninited {s : State} (hi : s.meter.inited = false) : exec .flush s = .next (s.endCommand .none) := by
  rw [exec_flush, if_neg (Bool.eq_false_iff.1 hi)]

/-- Settles O17. -/
theorem flushDiscardsCandidate : Obligations.FlushDiscardsCandidate := by
  refine ⟨decodeCommand_append 2, fun s => ?_⟩
  cases hi : s.meter.inited with
  | true => exact ⟨_, exec_flush_of_inited hi, rfl, rfl, rfl, fun _ => ⟨rfl, rfl, rfl⟩, fun h => nomatch h⟩
  | false => exact ⟨_, exec_flush_of_uninited hi, rfl, rfl, rfl, fun h => (nomatch h), fun _ => rfl⟩

/-! ### Outcomes (R122, R211) -/

/-- An acceptance is reported as READING or INCOMPLETE (R211). -/
theorem isAcceptance_iff (o : Output) : o.isAcceptance = true ↔ o.code = .reading ∨ o.code = .incomplete := by
  rw [Output.isAcceptance, Bool.or_eq_true, beq_iff_eq, beq_iff_eq]

theorem code_ne_none_of_isAcceptance {o : Output} (h : o.isAcceptance = true) : o.code ≠ .none := by
  obtain hc | hc := (isAcceptance_iff o).1 h <;> rw [hc] <;> decide

/-- An accepted candidate is reported as such (R117, R191). -/
theorem complete_accept_reports {s : State} {b : Byte} (h : validateFrame (s.candidate b) = true) :
    ∃ o, (s.complete b).outs = [o] ∧ o.isAcceptance = true :=
  ⟨_, complete_accept_outs h, code_isAcceptance _⟩

/-- Settles O40: of the commands only the completing RXBYTE ends in anything but NONE, and it leaves group M alone unless it accepts. -/
theorem onlyCompletionReports : Obligations.OnlyCompletionReports := by
  intro c s t hcmd h
  cases c with
  | idle =>
    obtain rfl := Host.Outcome.next.inj h
    exact ⟨.inl rfl, .inl rfl⟩
  | flush =>
    obtain rfl := Host.Outcome.next.inj h
    exact ⟨.inl rfl, .inl rfl⟩
  | init =>
    obtain ⟨-, e⟩ | ⟨-, -, e⟩ := exec_init_cases s <;> rw [e] at h
    · cases h
    · obtain rfl := Host.Outcome.next.inj h
      exact ⟨.inl rfl, .inr (.inl rfl)⟩
  | rxbyte b =>
    rcases receive_next_cases h with ⟨_, rfl⟩ | ⟨_, _, _, rfl⟩ | ⟨_, _, _, rfl⟩ | ⟨_, _, _, rfl⟩ | ⟨hi, hm, hc, rfl⟩
    · exact ⟨.inl rfl, .inl rfl⟩
    · exact ⟨.inl rfl, .inl rfl⟩
    · exact ⟨.inl rfl, .inl rfl⟩
    · exact ⟨.inl rfl, .inl rfl⟩
    · cases hv : validateFrame (s.candidate b) with
      | true =>
        obtain ⟨o, houts, hacc⟩ := complete_accept_reports hv
        exact ⟨.inr ⟨⟨b, rfl⟩, hi, hm, hc, o, houts, code_ne_none_of_isAcceptance hacc⟩, .inr (.inr ⟨o, houts, hacc⟩)⟩
      | false =>
        have houts := complete_reject_outs hv
        exact ⟨.inr ⟨⟨b, rfl⟩, hi, hm, hc, _, houts, nofun⟩, .inl (complete_reject_meter hv)⟩
  | validate f => cases hcmd
  | reanchor f => cases hcmd
  | accept f => cases hcmd
  | decode f => cases hcmd
  | convert d => cases hcmd
  | frame f => cases hcmd

/-! ### The table of transitions (R123) -/

/-- Before INIT neither FLUSH nor RXBYTE moves (MODE, CNT). -/
theorem exec_flush_or_rxbyte_of_uninited {s : State} {c : Instr} (hi : s.meter.inited = false)
    (hc : c = .flush ∨ ∃ b, c = .rxbyte b) : exec c s = .next (s.endCommand .none) := by
  obtain rfl | ⟨b, rfl⟩ := hc
  · exact exec_flush_of_uninited hi
  · exact receive_uninit b hi

/-- The row of a byte in HUNT: an anchor, or not. -/
theorem receive_hunt_transfers {s : State} (b : Byte) (hi : s.meter.inited = true) (hm : s.sync.mode = .hunt)
    (hc : s.sync.cnt = 0) :
    ∃ t, s.receive b = .next t ∧ t.outs = [⟨.none, none⟩] ∧
      if s.sync.winValid = true ∧ b = Config.syncMarker then t.sync.mode = .collect ∧ t.sync.cnt = 2
      else t.sync.mode = .hunt ∧ t.sync.cnt = 0 := by
  split
  · next h => exact ⟨_, receive_anchor hi hm ((anchors_iff _ _).2 h), rfl, rfl, rfl⟩
  · next h => exact ⟨_, receive_slide hi hm (anchors_eq_false h), rfl, hm, hc⟩

/-- REANCHOR's two rows: collecting from the least later marker, or hunting. -/
theorem reanchor_transfers (g : Sync) (f : Frame) :
    (∃ (j : Nat) (hj : j < 24), 2 ≤ j ∧ f[j] = Config.syncMarker ∧
        (∀ (k : Nat) (hk : k < j), 2 ≤ k → f[k] ≠ Config.syncMarker) ∧
        (g.reanchor f).mode = .collect ∧ (g.reanchor f).cnt.toNat = 25 - j) ∨
      ((∀ (j : Nat) (hj : j < 24), 2 ≤ j → f[j] ≠ Config.syncMarker) ∧
        (g.reanchor f).mode = .hunt ∧ (g.reanchor f).cnt = 0) := by
  cases hF : firstMarker f with
  | none =>
    rw [reanchor_none hF]
    exact .inr ⟨firstMarker_none hF, rfl, rfl⟩
  | some j =>
    obtain ⟨hj, hj2, hjm, hleast⟩ := firstMarker_some hF
    exact .inl ⟨j, hj, hj2, hjm, hleast, reanchor_mode_of_some hF g, reanchor_cnt_toNat hF g⟩

/-- Settles O39, row by row. -/
theorem controlTransfers : Obligations.ControlTransfers := by
  refine ⟨?idle, ?uninited, ?hunt, ?collect, ?complete, ?flush, ?init⟩
  case idle => exact fun s => ⟨_, exec_idle s, rfl, rfl, rfl⟩
  case uninited => exact fun s c hi hc => ⟨_, exec_flush_or_rxbyte_of_uninited hi hc, rfl, rfl, rfl⟩
  case hunt => exact fun s b hi hm hc => receive_hunt_transfers b hi hm hc
  case collect =>
    intro s b hi hm _ hc
    have hlt : s.sync.cnt.toNat < 23 := by omega
    exact ⟨_, receive_collect hi hm hlt, rfl, hm, collect_cnt_toNat _ b hlt⟩
  case complete =>
    intro s b f hi hm hc hf
    have hcand : s.candidate b = f := candidate_eq hf
    cases hvalid : validateFrame f with
    | true =>
      have hv : validateFrame (s.candidate b) = true := by rw [hcand, hvalid]
      obtain ⟨o, houts, hacc⟩ := complete_accept_reports hv
      refine ⟨_, o, receive_complete b hi hm hc, houts, ?_⟩
      rw [if_pos rfl, complete_accept_sync hv]
      exact ⟨rfl, rfl, (isAcceptance_iff o).1 hacc⟩
    | false =>
      have hv : validateFrame (s.candidate b) = false := by rw [hcand, hvalid]
      refine ⟨_, _, receive_complete b hi hm hc, complete_reject_outs hv, ?_⟩
      rw [if_neg Bool.false_ne_true, complete_reject_sync hv, hcand]
      exact ⟨rfl, reanchor_transfers _ f⟩
  case flush => exact fun s hi => ⟨_, exec_flush_of_inited hi, rfl, rfl, rfl⟩
  case init =>
    intro s hkv hki
    obtain ⟨hzero, -⟩ | ⟨-, -, e⟩ := exec_init_cases s
    · exact absurd hzero (not_or.2 ⟨hkv, hki⟩)
    · exact ⟨_, e, rfl, rfl, rfl⟩

end Sys2Proof.Machine
end

section
/-! SUPPORT. IDLE in a command sequence (40_synchronizer.md R111): no command reads the outputs of the one before it. -/

namespace Sys2Proof.Machine

/-- RXBYTE depends on the registers and the environment alone (R43, R112). -/
theorem receive_endCommand_none (s : State) (b : Byte) : (s.endCommand .none).receive b = s.receive b := by
  unfold State.receive State.complete
  rfl

/-- A command depends on the registers and the environment alone, so an IDLE before it is not seen (R43, R111). -/
theorem exec_endCommand_none {c : Instr} (hc : commandOnly c = true) (s : State) :
    exec c (s.endCommand .none) = exec c s := by
  cases c with
  | idle => rfl
  | rxbyte b => exact receive_endCommand_none s b
  | flush => rfl
  | init => rfl
  | validate f => cases hc
  | reanchor f => cases hc
  | accept f => cases hc
  | decode f => cases hc
  | convert d => cases hc
  | frame f => cases hc

/-- What R111 compares of two runs: the outcomes other than NONE, and the registers. -/
def eventsAndRegisters (p : List Output × State) : List Output × Sync × Meter :=
  (p.1.filter Output.isEvent, p.2.sync, p.2.meter)

/-- One more command before a run: its outcomes come first. -/
theorem eventsAndRegisters_runCommands_cons {c : Instr} {s t : State} (h : exec c s = .next t) (cs : List Instr) :
    (runCommands (c :: cs) s).map eventsAndRegisters =
      ((runCommands cs t).map eventsAndRegisters).map fun p => (t.outs.filter Output.isEvent ++ p.1, p.2) := by
  simp only [runCommands, h, Option.map_map]
  congr 1
  funext p
  simp [eventsAndRegisters]

/-- A run sets out from the registers and the environment: an IDLE before it is not seen. -/
theorem eventsAndRegisters_runCommands_endCommand {cs : List Instr} (hcs : ∀ c ∈ cs, commandOnly c = true) (s : State) :
    (runCommands cs (s.endCommand .none)).map eventsAndRegisters = (runCommands cs s).map eventsAndRegisters := by
  cases cs with
  | nil => rfl
  | cons c cs => rw [runCommands, runCommands, exec_endCommand_none (hcs c List.mem_cons_self)]

theorem eventsAndRegisters_runCommands_idle {cs : List Instr} (hcs : ∀ c ∈ cs, commandOnly c = true) (s : State) :
    (runCommands (.idle :: cs) s).map eventsAndRegisters = (runCommands cs s).map eventsAndRegisters := by
  rw [eventsAndRegisters_runCommands_cons (exec_idle s), eventsAndRegisters_runCommands_endCommand hcs]
  exact Option.map_id'

/-- IDLE commands can be dropped from a run, wherever they stand in it (R111). -/
theorem eventsAndRegisters_runCommands_filter (cs : List Instr) (s : State) (hcs : ∀ c ∈ cs, commandOnly c = true) :
    (runCommands (cs.filter (· ≠ .idle)) s).map eventsAndRegisters = (runCommands cs s).map eventsAndRegisters := by
  induction cs generalizing s with
  | nil => rfl
  | cons c cs ih =>
    have hrest : ∀ c ∈ cs, commandOnly c = true := fun d hd => hcs d (List.mem_cons_of_mem c hd)
    by_cases hc : c = .idle
    · subst hc
      rw [List.filter_cons_of_neg (by simp), ih s hrest, eventsAndRegisters_runCommands_idle hrest]
    · rw [List.filter_cons_of_pos (by simpa using hc)]
      cases hstep : exec c s with
      | next t =>
        rw [eventsAndRegisters_runCommands_cons hstep, eventsAndRegisters_runCommands_cons hstep, ih t hrest]
      | fault r => simp only [runCommands, hstep]
      | refused r => simp only [runCommands, hstep]

/-- Settles O7. -/
theorem idleChangesNothing : Obligations.IdleChangesNothing :=
  ⟨decodeCommand_append 0, exec_idle, eventsAndRegisters_runCommands_filter⟩

end Sys2Proof.Machine
end

section
/-! SUPPORT. Streams through noise and rejected candidates (40_synchronizer.md R119, R124, R125): which candidates a stream offers, and
that a block which has accepted nothing yet judges each of them in the order of their last bytes. -/

namespace Sys2Proof.Machine

/-! ### Runs of RXBYTE commands -/

theorem runBytes_append {as bs : List Byte} {s t u : State} {os₁ os₂ : List Output}
    (h₁ : runBytes as s = some (os₁, t)) (h₂ : runBytes bs t = some (os₂, u)) :
    runBytes (as ++ bs) s = some (os₁ ++ os₂, u) := by
  induction as generalizing s os₁ with
  | nil =>
    obtain ⟨rfl, rfl⟩ := Prod.mk.inj (Option.some.inj h₁)
    exact h₂
  | cons b as ih =>
    obtain ⟨s₁, os, hb, hrun, rfl⟩ := runBytes_cons_iff.1 h₁
    exact runBytes_cons_iff.2 ⟨s₁, os ++ os₂, hb, ih hrun, List.append_assoc _ _ _⟩

theorem runBytes_singleton {b : Byte} {s t : State} (h : s.receive b = .next t) : runBytes [b] s = some (t.outs, t) :=
  runBytes_cons_iff.2 ⟨t, [], h, rfl, (List.append_nil _).symm⟩

theorem QuietRun.stream_next {bs : List Byte} {s t : State} (h : QuietRun bs s t) :
    s.stream bs = .next { t with outs := List.replicate bs.length ⟨.none, none⟩, stage := .empty } := by
  have hstream := h.stream [] _ (stream_nil t)
  rwa [List.append_nil, List.append_nil] at hstream

/-- A quiet run as a run of commands: NONE for every byte. -/
theorem QuietRun.runBytes {bs : List Byte} {s t : State} (h : QuietRun bs s t) :
    ∃ u, Machine.runBytes bs s = some (List.replicate bs.length ⟨.none, none⟩, u) ∧ u.sync = t.sync ∧ u.meter = t.meter := by
  have hstream := h.stream_next
  cases bs with
  | nil =>
    injection hstream with hst
    injection hst with hsync hmeter
    exact ⟨s, rfl, hsync, hmeter⟩
  | cons b bs =>
    obtain ⟨u, hrun, hu⟩ := (stream_iff_runBytes (.inr (List.cons_ne_nil b bs))).1 hstream
    injection hu with hsync hmeter
    exact ⟨u, hrun, hsync.symm, hmeter.symm⟩

/-- Settles O45. -/
theorem noReportBefore24Bytes : Obligations.NoReportBefore24Bytes := by
  intro bs s hi hm hw hlen
  obtain ⟨t, -, hquiet⟩ := quietRun_of_tracks bs hi (tracks_nil hm hw) (by rw [List.length_nil]; omega)
  obtain ⟨u, hrun, -, hmeter⟩ := hquiet.runBytes
  exact ⟨_, u, hrun, rfl, hmeter.trans hquiet.meter⟩

/-! ### REANCHOR as a replay (R119) -/

/-- A hunting block that has seen one byte. -/
theorem tracks_singleton {g : Sync} (hm : g.mode = .hunt) (hw : g.winValid = true) : Tracks [g.winPrev] g := by
  refine .inl ⟨hm, by simp [hw], fun b hb => Option.some.inj hb, fun q hq => ?_⟩
  have hlt := hq.lt
  have h1 := hq.1
  rw [List.length_singleton] at hlt
  omega

/-- Behind the old anchor of a rejected candidate, the live anchors are the markers REANCHOR scans for. -/
theorem liveAnchor_drop_one_iff (f : Frame) (q : Nat) :
    LiveAnchor (f.toList.drop 1) q ↔ ∃ hq : q + 1 < 24, 2 ≤ q + 1 ∧ f[q + 1] = Config.syncMarker := by
  have hlen : (f.toList.drop 1).length = 23 := by simp
  rw [LiveAnchor, hlen, List.getElem?_drop, Nat.add_comm 1 q, List.getElem?_eq_some_iff]
  simp only [Vector.length_toList, Vector.getElem_toList]
  constructor
  · rintro ⟨h1, -, hq, hmark⟩
    exact ⟨hq, by omega, hmark⟩
  · rintro ⟨hq, h2, hmark⟩
    exact ⟨by omega, by omega, hq, hmark⟩

/-- REANCHOR leaves group S as the bytes behind the old anchor would (R118, R119). -/
theorem tracks_reanchor (g : Sync) (f : Frame) : Tracks (f.toList.drop 1) (g.reanchor f) := by
  have hlen : (f.toList.drop 1).length = 23 := by simp
  cases hF : firstMarker f with
  | none =>
    rw [reanchor_none hF]
    refine .inl ⟨rfl, by simp [← List.length_pos_iff], fun b hb => ?_, fun q hq => ?_⟩
    · rw [List.getLast?_eq_getElem?, hlen, List.getElem?_drop] at hb
      have h23 := byteAt_toList f 23
      exact Option.some.inj (h23.symm.trans hb)
    · obtain ⟨hq, h2, hmark⟩ := (liveAnchor_drop_one_iff f q).1 hq
      exact firstMarker_none hF _ hq h2 hmark
  | some j =>
    obtain ⟨hj, hj2, hjm, hleast⟩ := firstMarker_some hF
    have hlive : LiveAnchor (f.toList.drop 1) (j - 1) := by
      refine (liveAnchor_drop_one_iff f _).2 ⟨by omega, by omega, ?_⟩
      simpa only [show j - 1 + 1 = j by omega] using hjm
    refine .inr ⟨j - 1, hlive, fun p hp hpl => ?_, reanchor_mode_of_some hF g, reanchor_winValid_of_some hF g, ?_, fun i hi => ?_⟩
    · obtain ⟨hp24, hp2, hpm⟩ := (liveAnchor_drop_one_iff f p).1 hpl
      exact hleast (p + 1) (by omega) hp2 hpm
    · rw [reanchor_cnt_toNat hF, hlen]
      omega
    · rw [hlen] at hi
      have hi24 : j - 1 + i < 24 := by omega
      rw [List.getElem?_drop, show 1 + (j - 1 - 1 + i) = j - 1 + i by omega, read_reanchor_some hF, dif_pos hi24,
        List.getElem?_eq_getElem (by rwa [Vector.length_toList]), Vector.getElem_toList]

/-- CNT = 0 while hunting, R26 (a) in the direction that needs nothing of FB. -/
def Sync.EmptyHunt (g : Sync) : Prop := g.mode = .hunt → g.cnt = 0

theorem reanchor_emptyHunt (g : Sync) (f : Frame) : (g.reanchor f).EmptyHunt := by
  intro hm
  obtain ⟨j, -, -, -, -, hmode, -⟩ | ⟨-, -, hcnt⟩ := reanchor_transfers g f
  · rw [hmode] at hm
    cases hm
  · exact hcnt

theorem receive_keeps_emptyHunt {s t : State} {b : Byte} (hs : s.sync.EmptyHunt) (h : s.receive b = .next t) :
    t.sync.EmptyHunt := by
  rcases receive_next_cases h with ⟨_, rfl⟩ | ⟨_, _, _, rfl⟩ | ⟨_, hm, _, rfl⟩ | ⟨_, hm, hc, rfl⟩ | ⟨_, _, _, rfl⟩
  · exact hs
  · exact nofun
  · exact fun _ => hs hm
  · exact fun hm' => nomatch hm.symm.trans hm'
  · cases hv : validateFrame (s.candidate b) with
    | true =>
      rw [complete_accept_sync hv]
      exact fun _ => rfl
    | false =>
      rw [complete_reject_sync hv]
      exact reanchor_emptyHunt _ _

theorem QuietRun.emptyHunt {bs : List Byte} {s t : State} (h : QuietRun bs s t) (hs : s.sync.EmptyHunt) : t.sync.EmptyHunt := by
  have hkept := stream_keeps (fun g _ => g.EmptyHunt) (fun _ _ _ => receive_keeps_emptyHunt) hs h.stream_next
  exact hkept

/-- The stream received so far determines all that is specified of group S (R24, R25). -/
theorem Tracks.view_eq {P : List Byte} {g g' : Sync} (h : Tracks P g) (h' : Tracks P g') (hg : g.EmptyHunt)
    (hg' : g'.EmptyHunt) (hP : P ≠ []) : g.view = g'.view := by
  obtain ⟨hm, hw, hlast, hno⟩ | ⟨q, hq, hleast, hm, hw, hcnt, hheld⟩ := h <;>
    obtain ⟨hm', hw', hlast', hno'⟩ | ⟨q', hq', hleast', hm', hw', hcnt', hheld'⟩ := h'
  · have hwin : g.winPrev = g'.winPrev := by
      rw [hlast _ (List.getLast?_eq_some_getLast hP), hlast' _ (List.getLast?_eq_some_getLast hP)]
    simp [Sync.view, Sync.window, hm, hm', hg hm, hg' hm', hw.2 hP, hw'.2 hP, hwin]
  · exact absurd hq' (hno q')
  · exact absurd hq (hno' q)
  · obtain rfl : q = q' := by
      by_contra hne
      obtain hlt | hlt := Nat.lt_or_gt_of_ne hne
      · exact hleast' q hlt hq
      · exact hleast q' hlt hq'
    have hc : g.cnt = g'.cnt := BitVec.eq_of_toNat_eq (hcnt.trans hcnt'.symm)
    have hbytes : (List.range g'.cnt.toNat).map g.fb.read = (List.range g'.cnt.toNat).map g'.fb.read := by
      refine List.map_congr_left fun i hi => ?_
      rw [List.mem_range, hcnt'] at hi
      exact Option.some.inj ((hheld i hi).symm.trans (hheld' i hi))
    simp [Sync.view, Sync.window, hm, hm', hw, hw', hc, hbytes]

/-- Settles O16: the replayed bytes stay below a whole candidate, and leave what REANCHOR leaves. -/
theorem reanchorIsReplay : Obligations.ReanchorIsReplay := by
  intro s f hi
  have hcons : [f[1]] ++ f.toList.drop 2 = f.toList.drop 1 := by
    rw [List.drop_eq_getElem_cons (show 1 < f.toList.length by simp), Vector.getElem_toList]
    rfl
  obtain ⟨t, htracks, hquiet⟩ := quietRun_of_tracks (f.toList.drop 2)
    (s := { s with sync := { s.sync with mode := .hunt, cnt := 0, winPrev := f[1], winValid := true } }) hi
    (tracks_singleton rfl rfl) (by simp)
  rw [hcons] at htracks
  obtain ⟨u, hrun, hsync, hmeter⟩ := hquiet.runBytes
  refine ⟨_, u, _, hrun, exec_reanchor f s, ?_, hmeter.trans hquiet.meter⟩
  rw [hsync]
  exact htracks.view_eq (tracks_reanchor s.sync f) (hquiet.emptyHunt fun _ => rfl) (reanchor_emptyHunt _ f)
    (by simp [← List.length_pos_iff])

end Sys2Proof.Machine
end

section
/-! SUPPORT. The resynchronisation law (40_synchronizer.md R124): a block that has accepted nothing yet judges every candidate its
stream offers, in the order of their last bytes. -/

namespace Sys2Proof.Machine

/-! ### The candidates a stream offers -/

/-- c is the candidate that the stream X offers at the anchor q: a marker with a byte before it, and 24 bytes from that byte on. -/
def Anchored (X : List Byte) (q : Nat) (c : Frame) : Prop :=
  1 ≤ q ∧ X[q]? = some Config.syncMarker ∧ c.toList = (X.drop (q - 1)).take 24

/-- A candidate is complete in the stream that offers it. -/
theorem Anchored.le_length {X : List Byte} {q : Nat} {c : Frame} (h : Anchored X q c) : q + 23 ≤ X.length := by
  obtain ⟨hq, -, hc⟩ := h
  have hlen := congrArg List.length hc
  rw [Vector.length_toList, List.length_take, List.length_drop] at hlen
  omega

theorem Anchored.getElem? {X : List Byte} {q : Nat} {f : Frame} (h : Anchored X q f) {k : Nat} (hk : k < 24) :
    X[q - 1 + k]? = some f[k] := by
  obtain ⟨-, -, hf⟩ := h
  rw [← List.getElem?_drop, ← List.getElem?_take_of_lt hk, ← hf, List.getElem?_eq_getElem (by rwa [Vector.length_toList]),
    Vector.getElem_toList]

/-- Later bytes of the stream do not change a candidate that is complete. -/
theorem anchored_append_iff {X : List Byte} {q : Nat} (Y : List Byte) (c : Frame) (h : q + 23 ≤ X.length) :
    Anchored (X ++ Y) q c ↔ Anchored X q c := by
  refine and_congr_right fun h1 => ?_
  rw [List.getElem?_append_left (by omega), List.drop_append_of_le_length (by omega),
    List.take_append_of_le_length (by rw [List.length_drop]; omega)]

/-- A frame with the marker at offset 1 is a candidate wherever it stands in a stream (R83, R114). -/
theorem anchored_frame (noise : List Byte) {f : Frame} (hmark : f[1] = Config.syncMarker) :
    Anchored (noise ++ f.toList) (noise.length + 1) f := by
  refine ⟨by omega, ?_, ?_⟩
  · rw [List.getElem?_append_right (by omega), Nat.add_sub_cancel_left, List.getElem?_eq_getElem (by simp),
      Vector.getElem_toList, hmark]
  · rw [Nat.add_sub_cancel, List.drop_left, List.take_of_length_le (by rw [Vector.length_toList])]

/-! ### One byte -/

/-- An anchor whose candidate the next byte completes is live. -/
theorem Anchored.liveAnchor {P : List Byte} {b : Byte} {q : Nat} {c : Frame} (h : Anchored (P ++ [b]) q c)
    (hlen : P.length = q + 22) : LiveAnchor P q := by
  obtain ⟨h1, hmark, -⟩ := h
  rw [List.getElem?_append_left (by omega)] at hmark
  exact ⟨h1, hlen.le, hmark⟩

/-- The live anchor whose candidate the next byte completes is the least one, so its candidate is the one in FB (R117). -/
theorem Tracks.completes {P : List Byte} {s : State} {b : Byte} {q : Nat} {c : Frame} (h : Tracks P s.sync)
    (hi : s.meter.inited = true) (hlen : P.length = q + 22) (hc : Anchored (P ++ [b]) q c) :
    s.receive b = .next (s.complete b) ∧ s.candidate b = c := by
  have hlive := hc.liveAnchor hlen
  obtain ⟨-, -, -, hno⟩ | ⟨q', hq', hleast, hm, -, hcnt, hheld⟩ := h
  · exact absurd hlive (hno q)
  · obtain rfl : q' = q := by
      obtain ⟨-, hfull, -⟩ := hq'
      by_contra hne
      exact hleast q (by omega) hlive
    have h1 := hlive.1
    have h23 : s.sync.cnt = 23 := by
      refine BitVec.eq_of_toNat_eq (hcnt.trans ?_)
      rw [hlen, Nat.add_sub_cancel_left]
      rfl
    refine ⟨receive_complete b hi hm h23, candidate_eq fun k hk => ?_⟩
    have hbyte := hc.getElem? hk
    split
    · next hk23 =>
      rw [show q' - 1 + k = P.length by omega, List.getElem?_concat_length] at hbyte
      exact (Option.some.inj hbyte).symm
    · rw [List.getElem?_append_left (by omega), hheld k (by omega)] at hbyte
      exact (Option.some.inj hbyte).symm

/-- One more byte completes no candidate that validates, and nothing is accepted; or it completes one, which is accepted. -/
theorem tracks_judges {P : List Byte} {s : State} (b : Byte) (hi : s.meter.inited = true) (h : Tracks P s.sync) :
    (∃ t, s.receive b = .next t ∧ Tracks (P ++ [b]) t.sync ∧ t.meter = s.meter ∧ t.outs.map Output.isAcceptance = [false] ∧
      ∀ q c, P.length = q + 22 → Anchored (P ++ [b]) q c → validateFrame c = false) ∨
    ∃ q, P.length = q + 22 ∧ Anchored (P ++ [b]) q (s.candidate b) ∧ validateFrame (s.candidate b) = true ∧
      s.receive b = .next (s.complete b) := by
  obtain ⟨t, ht, htracks, hmeter, houts⟩ | ⟨q, hq, hlen, -, -, hcand, hvalid, hcomplete⟩ := tracks_receive b hi h
  · have hrejects : t.outs.map Output.isAcceptance = [false] := by
      obtain houts | ⟨houts, -⟩ := houts <;> rw [houts] <;> rfl
    refine .inl ⟨t, ht, htracks, hmeter, hrejects, fun q c hlen hc => Bool.eq_false_iff.2 fun hvalid => ?_⟩
    obtain ⟨hcomplete, rfl⟩ := h.completes hi hlen hc
    obtain rfl := Host.Outcome.next.inj (hcomplete.symm.trans ht)
    obtain ⟨o, ho, hacc⟩ := complete_accept_reports hvalid
    rw [ho, List.map_singleton, hacc] at hrejects
    cases hrejects
  · have hlt := hq.lt
    obtain ⟨h1, -, hmark⟩ := hq
    refine .inr ⟨q, hlen, ⟨h1, ?_, ?_⟩, hvalid, hcomplete⟩
    · rw [List.getElem?_append_left hlt, hmark]
    · rw [hcand, List.take_of_length_le]
      rw [List.length_drop, List.length_append, List.length_singleton]
      omega

/-! ### Any number of bytes -/

/-- A block behind some stream of which it has accepted nothing: it takes every byte. -/
def Receptive (s : State) : Prop := s.meter.inited = true ∧ ∃ P, Tracks P s.sync

/-- An accepted frame starts a new stream (R120). -/
theorem Receptive.receive {s : State} (h : Receptive s) (b : Byte) :
    ∃ t, s.receive b = .next t ∧ Receptive t ∧ t.outs.length = 1 := by
  obtain ⟨hi, P, hP⟩ := h
  obtain ⟨t, ht, htracks, hmeter, houts, -⟩ | ⟨q, -, -, hvalid, hcomplete⟩ := tracks_judges b hi hP
  · refine ⟨t, ht, ⟨by rw [hmeter, hi], _, htracks⟩, ?_⟩
    rw [← List.length_map (f := Output.isAcceptance), houts, List.length_singleton]
  · have hempty : Tracks [] (s.complete b).sync := by
      rw [complete_accept_sync hvalid]
      exact tracks_nil rfl rfl
    refine ⟨_, hcomplete, ⟨(receive_inited hcomplete).trans hi, _, hempty⟩, ?_⟩
    rw [complete_accept_outs hvalid, List.length_singleton]

theorem Receptive.runBytes {s : State} (h : Receptive s) (bs : List Byte) :
    ∃ os t, Machine.runBytes bs s = some (os, t) ∧ Receptive t := by
  induction bs generalizing s with
  | nil => exact ⟨[], s, rfl, h⟩
  | cons b bs ih =>
    obtain ⟨s₁, hb, hs₁, -⟩ := h.receive b
    obtain ⟨os, t, hrun, ht⟩ := ih hs₁
    exact ⟨_, t, runBytes_cons_iff.2 ⟨s₁, os, hb, hrun, rfl⟩, ht⟩

/-- Behind P the bytes bs offer no candidate that validates, and nothing is accepted; or they offer one, and something is accepted. -/
theorem tracks_runBytes {bs : List Byte} {P : List Byte} {s t : State} {os : List Output} (hi : s.meter.inited = true)
    (h : Tracks P s.sync) (hrun : runBytes bs s = some (os, t)) :
    (os.map Output.isAcceptance = List.replicate bs.length false ∧ Tracks (P ++ bs) t.sync ∧ t.meter = s.meter ∧
      ∀ q c, P.length ≤ q + 22 → Anchored (P ++ bs) q c → validateFrame c = false) ∨
    (true ∈ os.map Output.isAcceptance ∧ ∃ q c, Anchored (P ++ bs) q c ∧ validateFrame c = true) := by
  induction bs generalizing P s os with
  | nil =>
    obtain ⟨rfl, rfl⟩ := Prod.mk.inj (Option.some.inj hrun)
    rw [List.append_nil]
    refine .inl ⟨rfl, h, rfl, fun q c hq hc => ?_⟩
    have hle := hc.le_length
    omega
  | cons b bs ih =>
    obtain ⟨s₁, os₁, hb, hrun₁, rfl⟩ := runBytes_cons_iff.1 hrun
    have hstream : P ++ b :: bs = (P ++ [b]) ++ bs := by rw [List.append_assoc, List.singleton_append]
    have hlen₁ : (P ++ [b]).length = P.length + 1 := by rw [List.length_append, List.length_singleton]
    rw [hstream, List.map_append]
    obtain ⟨t₁, ht₁, htracks₁, hmeter₁, houts₁, hjudged₁⟩ | ⟨q, hlen, hanchored, hvalid, hcomplete⟩ := tracks_judges b hi h
    · obtain rfl := Host.Outcome.next.inj (hb.symm.trans ht₁)
      obtain ⟨hos, htracks, hmeter, hjudged⟩ | ⟨haccept, hoffer⟩ := ih (by rw [hmeter₁, hi]) htracks₁ hrun₁
      · refine .inl ⟨by rw [houts₁, hos]; rfl, htracks, hmeter.trans hmeter₁, fun q c hq hc => ?_⟩
        obtain hnow | hlater := Nat.eq_or_lt_of_le hq
        · exact hjudged₁ q c hnow ((anchored_append_iff bs c (by omega)).1 hc)
        · exact hjudged q c (by omega) hc
      · exact .inr ⟨List.mem_append_right _ haccept, hoffer⟩
    · have hs₁ : s₁ = s.complete b := Host.Outcome.next.inj (hb.symm.trans hcomplete)
      obtain ⟨o, houts, hacc⟩ := complete_accept_reports hvalid
      refine .inr ⟨List.mem_append_left _ ?_, q, _, (anchored_append_iff bs _ (by omega)).2 hanchored, hvalid⟩
      rw [hs₁, houts, List.map_singleton, hacc]
      exact List.mem_singleton_self _

/-- Bytes none of which completes a candidate report nothing (R122). -/
theorem quietRun_of_no_marker (bs : List Byte) {P : List Byte} {s : State} (hi : s.meter.inited = true) (hP : Tracks P s.sync)
    (hno : ∀ q, 1 ≤ q → q + 22 < P.length + bs.length → (P ++ bs)[q]? ≠ some Config.syncMarker) :
    ∃ t, Tracks (P ++ bs) t.sync ∧ QuietRun bs s t := by
  induction bs generalizing P s with
  | nil => exact ⟨s, by rwa [List.append_nil], .nil s⟩
  | cons b bs ih =>
    have hnone (q : Nat) (hq : LiveAnchor P q) : P.length ≠ q + 22 := by
      intro hfull
      have hlt := hq.lt
      obtain ⟨h1, -, hmark⟩ := hq
      refine hno q h1 (by rw [List.length_cons]; omega) ?_
      rw [List.getElem?_append_left hlt, hmark]
    rw [← List.singleton_append, ← List.append_assoc] at hno ⊢
    obtain ⟨s₁, h₁, hP₁, hmeter, houts⟩ | ⟨q, hq, hfull, -⟩ := tracks_receive b hi hP
    · obtain houts | ⟨-, q, hq, hfull⟩ := houts
      · obtain ⟨t, ht, hquiet⟩ := ih (hmeter ▸ hi) hP₁ fun q h1 hq => hno q h1 (by
          simpa only [List.length_append, List.length_singleton, Nat.add_assoc] using hq)
        exact ⟨t, ht, .cons h₁ hmeter houts hquiet⟩
      · exact absurd hfull (hnone q hq)
    · exact absurd hfull (hnone q hq)

/-! ### A frame behind noise (R124) -/

theorem noise_append_frame (noise : List Byte) (f : Frame) :
    noise ++ f.toList = (noise ++ f.toList.take 23) ++ [f[23]] := by
  rw [List.append_assoc, ← frame_toList_eq_take_append]

theorem length_noise_append_take (noise : List Byte) (f : Frame) :
    (noise ++ f.toList.take 23).length = noise.length + 23 := by
  rw [List.length_append, length_take_frame]

/-- Where nothing of the noise has been accepted, the last byte of the frame accepts it (R117, R120). -/
theorem receive_last_accepts {noise : List Byte} {f : Frame} {s : State} (hi : s.meter.inited = true)
    (h : Tracks (noise ++ f.toList.take 23) s.sync) (hmark : f[1] = Config.syncMarker) (hvalid : validateFrame f = true) :
    ∃ o t, s.receive f[23] = .next t ∧ t.outs = [o] ∧ o.isAcceptance = true ∧ t.meter.view.lastFrame = some f := by
  have hanchored := anchored_frame noise hmark
  rw [noise_append_frame] at hanchored
  obtain ⟨hcomplete, hcand⟩ := h.completes hi (by rw [length_noise_append_take]) hanchored
  have hv : validateFrame (s.candidate f[23]) = true := by rw [hcand, hvalid]
  obtain ⟨o, houts, hacc⟩ := complete_accept_reports hv
  refine ⟨o, _, hcomplete, houts, hacc, ?_⟩
  rw [complete_accept_meter hv, hcand]
  rfl

/-- Noise without an earlier anchor holds no marker from which 24 bytes would be complete before the frame is. -/
theorem no_marker_of_clean_noise {noise : List Byte} {f : Frame}
    (hnoise : ∀ (q : Nat) (hq : q < noise.length), 1 ≤ q → noise[q] ≠ Config.syncMarker)
    (hstatus : noise = [] ∨ f[0] ≠ Config.syncMarker) {q : Nat} (h1 : 1 ≤ q) (hq : q ≤ noise.length) :
    (noise ++ f.toList.take 23)[q]? ≠ some Config.syncMarker := by
  obtain rfl | hlt := Nat.eq_or_lt_of_le hq
  · obtain rfl | hne := hstatus
    · exact absurd h1 (by decide)
    · rw [List.getElem?_append_right le_rfl, Nat.sub_self, take_frame_getElem? f (by decide)]
      exact fun h => hne (Option.some.inj h)
  · rw [List.getElem?_append_left hlt, List.getElem?_eq_getElem hlt]
    exact fun h => hnoise q hlt h1 (Option.some.inj h)

/-- Settles O46: no byte before the frame's last one completes a candidate. -/
theorem cleanNoiseIsDropped : Obligations.CleanNoiseIsDropped := by
  intro noise f s hi hm hw hmark hvalid hnoise hstatus
  have hlen := length_noise_append_take noise f
  obtain ⟨t, htracks, hquiet⟩ := quietRun_of_no_marker (noise ++ f.toList.take 23) hi (tracks_nil hm hw) fun q h1 hq =>
    no_marker_of_clean_noise hnoise hstatus h1 (by rw [hlen, List.length_nil] at hq; omega)
  obtain ⟨u, hrun, hsync, hmeter⟩ := hquiet.runBytes
  have hiu : u.meter.inited = true := by rw [hmeter, hquiet.meter, hi]
  obtain ⟨o, v, hv, houts, hacc, hlast⟩ := receive_last_accepts hiu (hsync ▸ htracks) hmark hvalid
  have hwhole := runBytes_append hrun (runBytes_singleton hv)
  rw [← noise_append_frame, houts, length_noise_append_take] at hwhole
  exact ⟨_, o, v, hwhole, rfl, hacc, hlast⟩

/-- Settles O47: the candidates at the earlier anchors are complete before the frame's last byte, and each of them is judged unless one
before it is accepted. -/
theorem resynchronisationLaw : Obligations.ResynchronisationLaw := by
  intro noise f s hi hm hw hmark hvalid
  have hempty : Tracks [] s.sync := tracks_nil hm hw
  have hlen := length_noise_append_take noise f
  obtain ⟨os, t, hrun, hreceptive⟩ := Receptive.runBytes ⟨hi, _, hempty⟩ (noise ++ f.toList.take 23)
  rw [noise_append_frame]
  obtain ⟨hos, htracks, hmeter, hjudged⟩ | ⟨haccept, q, c, hanchored, hvalidc⟩ := tracks_runBytes hi hempty hrun
  · obtain ⟨o, u, hu, houts, hacc, hlast⟩ := receive_last_accepts (by rw [hmeter, hi]) htracks hmark hvalid
    refine ⟨_, u, runBytes_append hrun (runBytes_singleton hu), iff_of_true ⟨?_, hlast⟩ fun q c h1 hq hmarkq hc => ?_⟩
    · rw [List.map_append, hos, hlen, houts, List.map_singleton, hacc]
    · have hearlier := (anchored_append_iff [f[23]] c (by omega)).1 ⟨h1, hmarkq, hc⟩
      exact hjudged q c (Nat.zero_le _) hearlier
  · obtain ⟨u, hu, -, hone⟩ := hreceptive.receive f[23]
    refine ⟨_, u, runBytes_append hrun (runBytes_singleton hu), iff_of_false ?_ fun hnone => ?_⟩
    · rintro ⟨hmap, -⟩
      rw [List.map_append] at hmap
      obtain ⟨hos, -⟩ := List.append_inj' hmap (by rw [List.length_map, hone, List.length_singleton])
      rw [hos] at haccept
      exact Bool.false_ne_true (List.eq_of_mem_replicate haccept).symm
    · have hle : q + 23 ≤ (noise ++ f.toList.take 23).length := hanchored.le_length
      obtain ⟨h1, hmarkq, hc⟩ := (anchored_append_iff [f[23]] c hle).2 hanchored
      exact Bool.false_ne_true ((hnone q c h1 (by omega) hmarkq hc).symm.trans hvalidc)

end Sys2Proof.Machine
end

section
/-! SUPPORT. The sum check (41_validator.md R141, R143, R145): the checksum as a sum of bytes, what a change of one byte does to it,
and VALIDATE's laws from that. -/

namespace Sys2Proof.Machine

/-! ### The checksum as a sum of bytes (R141) -/

/-- Reduction modulo 256 commutes with addition (R141). -/
theorem ofNat_sum_toNat (l : List Byte) : BitVec.ofNat 8 (l.map BitVec.toNat).sum = l.sum := by
  induction l with
  | nil => rfl
  | cons b l ih => rw [List.map_cons, List.sum_cons, List.sum_cons, BitVec.ofNat_add, BitVec.ofNat_toNat, BitVec.setWidth_eq, ih]

theorem checksumOf_eq_sum (f : Frame) : checksumOf f = ((f.toList.drop 2).take 21).sum :=
  ofNat_sum_toNat _

/-- The 8-bit accumulator that wraps (R141). -/
theorem checksumOf_eq_foldl (f : Frame) : checksumOf f = ((f.toList.drop 2).take 21).foldl (· + ·) 0 := by
  rw [checksumOf_eq_sum, List.sum_eq_foldl]

theorem validateFrame_iff_checksumOf (f : Frame) : validateFrame f = true ↔ checksumOf f = f[23] :=
  beq_iff_eq

/-- VALIDATE depends on nothing but the checksum of the payload and the stored checksum. -/
theorem validateFrame_congr {f g : Frame} (hsum : checksumOf f = checksumOf g) (hchk : f[23] = g[23]) :
    validateFrame f = validateFrame g := by
  rw [Bool.eq_iff_iff, validateFrame_iff_checksumOf, validateFrame_iff_checksumOf, hsum, hchk]

/-- Settles O23: the natural-number form is the sum over 21 offsets, the wrapping form the checksum as a sum of bytes. -/
theorem validateIsSumCheck : Obligations.ValidateIsSumCheck := by
  intro f s
  refine ⟨validateFrame f, exec_validate f s, ?_, ?_⟩
  · rw [validateFrame_iff, payloadSum_eq]
  · rw [validateFrame_iff_checksumOf, checksumOf_eq_foldl]

/-! ### The checksum after a change of one byte -/

/-- Offsets 0 and 1 are outside the sum (R143). -/
theorem checksumOf_set_of_lt_two (f : Frame) {o : Nat} (ho : o < 2) (v : Byte) :
    checksumOf (f.set o v) = checksumOf f := by
  rw [checksumOf_eq_sum, checksumOf_eq_sum, Vector.toList_set, List.drop_set_of_lt ho]

/-- The stored checksum is outside the sum (R85). -/
theorem checksumOf_set_stored (f : Frame) (v : Byte) : checksumOf (f.set 23 v) = checksumOf f := by
  rw [checksumOf_eq_sum, checksumOf_eq_sum, Vector.toList_set, List.drop_set, if_neg (by decide), List.take_set_of_le (by decide)]

/-- A change of a payload byte changes the checksum by the difference of the two values (R145 b). -/
theorem checksumOf_set_payload (f : Frame) {o : Nat} (h2 : 2 ≤ o) (ho : o < 23) (v : Byte) :
    checksumOf (f.set o v) = checksumOf f + (v - f[o]) := by
  have hlt : o - 2 < ((f.toList.drop 2).take 21).length := by simp; omega
  have hold : ((f.toList.drop 2).take 21)[o - 2] = f[o] := by simp [Nat.add_sub_cancel' h2]
  rw [checksumOf_eq_sum, checksumOf_eq_sum, Vector.toList_set, List.drop_set, if_neg (by omega), List.take_set, List.sum_set',
    dif_pos hlt, hold, neg_add_eq_sub]

/-- The order of the payload bytes plays no part (R145 c). -/
theorem checksumOf_eq_of_perm {f g : Frame} (h : ((f.toList.drop 2).take 21).Perm ((g.toList.drop 2).take 21)) :
    checksumOf f = checksumOf g := by
  rw [checksumOf_eq_sum, checksumOf_eq_sum, h.sum_eq]

/-! ### The laws (R145) -/

/-- Round trip (R145 a): the checksum the payload calls for validates, and no other. -/
theorem validateFrame_set_stored_iff (f : Frame) (c : Byte) : validateFrame (f.set 23 c) = true ↔ c = checksumOf f := by
  rw [validateFrame_iff_checksumOf, checksumOf_set_stored, Vector.getElem_set_self, eq_comm]

/-- Single-byte change (R145 b). -/
theorem validateFrame_set_eq_false {f : Frame} {o : Nat} (ho : o < 24) {v : Byte} (hvalid : validateFrame f = true)
    (h2 : 2 ≤ o) (hv : v ≠ f[o]) : validateFrame (f.set o v) = false := by
  rw [validateFrame_iff_checksumOf] at hvalid
  rw [Bool.eq_false_iff]
  obtain hpayload | rfl : o < 23 ∨ o = 23 := by omega
  · rw [ne_eq, validateFrame_iff_checksumOf, checksumOf_set_payload f h2 hpayload,
      Vector.getElem_set_ne ho (by decide) (by omega), hvalid, add_eq_left, sub_eq_zero]
    exact hv
  · rw [ne_eq, validateFrame_set_stored_iff, hvalid]
    exact hv

/-- Two changes that cancel (R145 c). -/
theorem validateFrame_set_set_cancel (f : Frame) {o p : Nat} (ho : o < 23) (hp : p < 23) (d : Byte) (ho2 : 2 ≤ o)
    (hp2 : 2 ≤ p) (hne : o ≠ p) : validateFrame ((f.set o (f[o] + d)).set p (f[p] - d)) = validateFrame f := by
  apply validateFrame_congr
  · rw [checksumOf_set_payload _ hp2 hp, checksumOf_set_payload f ho2 ho, Vector.getElem_set_ne _ _ hne]
    ring
  · rw [Vector.getElem_set_ne _ _ (by omega), Vector.getElem_set_ne _ _ (by omega)]

/-- A change of Status and Sync (R143, R145 c). -/
theorem validateFrame_set_status_sync (f : Frame) (a b : Byte) : validateFrame ((f.set 0 a).set 1 b) = validateFrame f := by
  apply validateFrame_congr
  · rw [checksumOf_set_of_lt_two _ (by decide), checksumOf_set_of_lt_two f (by decide)]
  · rw [Vector.getElem_set_ne _ _ (by decide), Vector.getElem_set_ne _ _ (by decide)]

/-- Settles O24: each law follows from what its change does to the checksum and to the stored byte. -/
theorem sumCheckLaws : Obligations.SumCheckLaws :=
  ⟨fun f => ⟨checksumOf f, (validateFrame_set_stored_iff f _).2 rfl, fun c => (validateFrame_set_stored_iff f c).1⟩,
    fun _ _ ho _ hvalid h2 hv => validateFrame_set_eq_false ho hvalid h2 hv,
    fun f _ _ ho hp d ho2 hp2 hne => validateFrame_set_set_cancel f ho hp d ho2 hp2 hne,
    fun _ _ hperm hchk => validateFrame_congr (checksumOf_eq_of_perm hperm) hchk,
    validateFrame_set_status_sync⟩

end Sys2Proof.Machine
end

section
/-! SUPPORT. DECODE (42_decoder.md R151 to R155): the ready rule and the fields of its record as natural numbers. -/

namespace Sys2Proof.Machine

/-- The ready rule (R153), as a natural number. -/
theorem whenReady_map_toNat (ready : Bool) (raw : BitVec 24) :
    (whenReady ready raw).map BitVec.toNat = if ready = false then none else some raw.toNat := by
  cases ready <;> rfl

/-- A measured register (R152, R153): its three bytes, most significant first, under its ready bit. -/
theorem whenReady_be24_map_toNat (ready : Bool) (f : Frame) (o : Nat) (h : o + 2 < 24) :
    (whenReady ready (be24 f o h)).map BitVec.toNat =
      if ready = false then none else some (f[o].toNat * 65536 + f[o + 1].toNat * 256 + f[o + 2].toNat) := by
  rw [whenReady_map_toNat, be24_toNat]

/-- Settles O25: the record is that of `decodeFields`; a parameter is a BE24 field, a measured register a BE24 field under its ready
bit, and the pulse count a BE16 field. -/
theorem decodeReadsFields : Obligations.DecodeReadsFields := by
  intro f s
  exact ⟨decodeFields f, exec_decode f s,
    byteAt_eq f 0,
    be24_toNat f 2 _, whenReady_be24_map_toNat (voltageReady f[20]) f 5 _,
    be24_toNat f 8 _, whenReady_be24_map_toNat (currentReady f[20]) f 11 _,
    be24_toNat f 14 _, whenReady_be24_map_toNat (powerReady f[20]) f 17 _,
    byteAt_eq f 20, Iff.rfl, be16_toNat f 21 _⟩

end Sys2Proof.Machine
end

section
/-! SUPPORT. CONVERT's quantities (43_converter.md R175 to R187): voltage, current, activePower, apparentPower and powerFactor as
natural numbers, exact floors that fit their widths, and how far the floors are from the exact values (R196). -/

namespace Sys2Proof.Machine

/-! ### The calibration constants once INITED = 1 (R29) -/

theorem kvValue_of_inited {m : Meter} (hi : m.inited = true) : m.kvValue = some m.kv := if_pos hi

theorem kiValue_of_inited {m : Meter} (hi : m.inited = true) : m.kiValue = some m.ki := if_pos hi

/-! ### voltage and current (R176 to R179) -/

/-- The guarded ratio as a natural number. -/
theorem scaled_map_toNat (reg : Option (BitVec 24)) (par : BitVec 24) (k : BitVec Config.kW) :
    (scaled 56 reg par (some k)).map BitVec.toNat =
      match reg with
      | some x => if par = 0 then none else some (x.toNat * k.toNat / par.toNat)
      | none => none := by
  cases reg with
  | none => rfl
  | some x =>
    by_cases hpar : par = 0
    · simp only [scaled, if_pos hpar, Option.map_none]
    · obtain ⟨v, hv, hnat⟩ := scaled_some x k hpar
      rw [hv, Option.map_some, hnat]
      exact (if_neg hpar).symm

theorem readingOf_voltage_toNat {m : Meter} (hi : m.inited = true) (oor : List Byte) (d : DecodedFields) :
    (readingOf oor d m).voltage.map BitVec.toNat =
      match d.vreg with
      | some x => if d.vpar = 0 then none else some (x.toNat * m.kv.toNat / d.vpar.toNat)
      | none => none := by
  rw [← scaled_map_toNat, ← kvValue_of_inited hi]
  rfl

theorem readingOf_current_toNat {m : Meter} (hi : m.inited = true) (oor : List Byte) (d : DecodedFields) :
    (readingOf oor d m).current.map BitVec.toNat =
      match d.ireg with
      | some x => if d.ipar = 0 then none else some (x.toNat * m.ki.toNat / d.ipar.toNat)
      | none => none := by
  rw [← scaled_map_toNat, ← kiValue_of_inited hi]
  rfl

/-- Settles O26. -/
theorem convertScalesVoltageCurrent : Obligations.ConvertScalesVoltageCurrent := by
  intro d s hi
  exact ⟨_, _, exec_convert d s, rfl, readingOf_voltage_toNat hi _ d, readingOf_current_toNat hi _ d⟩

/-! ### activePower (R180 to R182) -/

theorem powerOor_iff (oor : List Byte) (status : Byte) : powerOor oor status = true ↔ status ∈ oor :=
  List.contains_iff_mem

/-- The one floor of R180 fits P_W bits (R182): the 16 fraction bits come off the 88-bit product. -/
theorem power_quotient_lt (x : BitVec 24) (kv ki : BitVec Config.kW) {par : BitVec 24} (hpar : par ≠ 0) :
    x.toNat * kv.toNat * ki.toNat / (par.toNat * 65536) < 2 ^ 72 := by
  have hpos : 0 < par.toNat := Nat.pos_of_ne_zero fun h => hpar (BitVec.eq_of_toNat_eq h)
  rw [Nat.div_lt_iff_lt_mul (by omega)]
  calc x.toNat * kv.toNat * ki.toNat
      < 2 ^ 24 * 2 ^ 32 * 2 ^ 32 := Nat.mul_lt_mul'' (Nat.mul_lt_mul'' x.isLt kv.isLt) ki.isLt
    _ = 2 ^ 72 * (1 * 65536) := by norm_num
    _ ≤ 2 ^ 72 * (par.toNat * 65536) := by gcongr; exact hpos

theorem activePowerOf_map_toNat (oor : List Byte) (d : DecodedFields) (kv ki : BitVec Config.kW) :
    (activePowerOf oor d (some kv) (some ki)).map BitVec.toNat =
      if d.status ∈ oor then some 0
      else
        match d.preg with
        | some x =>
          if d.ppar = 0 then none else some (x.toNat * kv.toNat * ki.toNat / (d.ppar.toNat * 65536))
        | none => none := by
  by_cases hoor : d.status ∈ oor
  · simp only [activePowerOf, if_pos ((powerOor_iff _ _).2 hoor), if_pos hoor]
    rfl
  · simp only [activePowerOf, if_neg (mt (powerOor_iff _ _).1 hoor), if_neg hoor]
    cases d.preg with
    | none => rfl
    | some x =>
      by_cases hpar : d.ppar = 0
      · simp only [if_pos hpar, Option.map_none]
      · simp only [if_neg hpar]
        exact congrArg some (Nat.mod_eq_of_lt (power_quotient_lt x kv ki hpar))

theorem readingOf_activePower_toNat {m : Meter} (hi : m.inited = true) (oor : List Byte) (d : DecodedFields) :
    (readingOf oor d m).activePower.map BitVec.toNat =
      if d.status ∈ oor then some 0
      else
        match d.preg with
        | some x =>
          if d.ppar = 0 then none else some (x.toNat * m.kv.toNat * m.ki.toNat / (d.ppar.toNat * 65536))
        | none => none := by
  rw [← activePowerOf_map_toNat, ← kvValue_of_inited hi, ← kiValue_of_inited hi]
  rfl

/-- Settles O27. -/
theorem convertScalesPower : Obligations.ConvertScalesPower := by
  intro d s hi
  exact ⟨_, _, exec_convert d s, rfl, readingOf_activePower_toNat hi _ d⟩

/-! ### apparentPower and powerFactor (R183 to R187) -/

/-- The product of two 56-bit factors without its 16 low bits fits S_W bits (R184). -/
theorem apparentPowerOf_map_toNat (v : Option (BitVec Config.vW)) (i : Option (BitVec Config.iW)) :
    (apparentPowerOf v i).map BitVec.toNat =
      match v, i with
      | some a, some c => some (a.toNat * c.toNat / 65536)
      | _, _ => none := by
  cases v with
  | none => rfl
  | some a =>
    cases i with
    | none => rfl
    | some c =>
      have hlt : a.toNat * c.toNat / 65536 < 2 ^ 96 := by
        rw [Nat.div_lt_iff_lt_mul (by norm_num)]
        calc a.toNat * c.toNat < 2 ^ 56 * 2 ^ 56 := Nat.mul_lt_mul'' a.isLt c.isLt
          _ = 2 ^ 96 * 65536 := by norm_num
      exact congrArg some (Nat.mod_eq_of_lt hlt)

/-- A 72-bit power with 16 fraction bits more fits PF_W bits, whatever it is divided by (R187). -/
theorem powerFactorOf_map_toNat (p : Option (BitVec Config.pW)) (q : Option (BitVec Config.sW)) :
    (powerFactorOf p q).map BitVec.toNat =
      match p, q with
      | some p, some q => some (if q = 0 then 0 else p.toNat * 65536 / q.toNat)
      | _, _ => none := by
  cases p with
  | none => rfl
  | some p =>
    cases q with
    | none => rfl
    | some q =>
      by_cases hq : q = 0
      · simp only [powerFactorOf, if_pos hq]
        rfl
      · have hlt : p.toNat * 65536 / q.toNat < 2 ^ 88 := by
          have hp : p.toNat < 2 ^ 72 := p.isLt
          exact (Nat.div_le_self _ _).trans_lt (by omega)
        simp only [powerFactorOf, if_neg hq]
        exact congrArg some (Nat.mod_eq_of_lt hlt)

/-- apparentPower comes from the rounded values of the same Reading (R174, R183). -/
theorem readingOf_apparentPower (oor : List Byte) (d : DecodedFields) (m : Meter) :
    (readingOf oor d m).apparentPower = apparentPowerOf (readingOf oor d m).voltage (readingOf oor d m).current := rfl

/-- powerFactor comes from the same Reading's activePower and apparentPower (R174, R185). -/
theorem readingOf_powerFactor (oor : List Byte) (d : DecodedFields) (m : Meter) :
    (readingOf oor d m).powerFactor =
      powerFactorOf (readingOf oor d m).activePower (readingOf oor d m).apparentPower := rfl

/-- Settles O28. -/
theorem convertDerivesApparentAndFactor : Obligations.ConvertDerivesApparentAndFactor := by
  intro d s _
  refine ⟨_, _, exec_convert d s, rfl, ?_, ?_⟩
  · rw [readingOf_apparentPower]
    exact apparentPowerOf_map_toNat _ _
  · rw [readingOf_powerFactor]
    exact powerFactorOf_map_toNat _ _

/-! ### Rounding (R196) -/

/-- A quantity that is present has a nonzero parameter and the value of its formula. -/
theorem toNat_of_guarded {w : Nat} {v : BitVec w} {par : BitVec 24} {n : Nat}
    (h : (some v).map BitVec.toNat = if par = 0 then none else some n) : par ≠ 0 ∧ v.toNat = n := by
  by_cases hpar : par = 0
  · rw [if_pos hpar] at h
    cases h
  · rw [if_neg hpar] at h
    exact ⟨hpar, Option.some.inj h⟩

theorem apparentPower_toNat_of_some {oor : List Byte} {d : DecodedFields} {m : Meter} {v : BitVec Config.vW}
    {i : BitVec Config.iW} {q : BitVec Config.sW} (hv : (readingOf oor d m).voltage = some v)
    (hi : (readingOf oor d m).current = some i) (hq : (readingOf oor d m).apparentPower = some q) :
    q.toNat = v.toNat * i.toNat / 65536 := by
  have happ := apparentPowerOf_map_toNat (some v) (some i)
  rw [readingOf_apparentPower, hv, hi] at hq
  rw [hq] at happ
  exact Option.some.inj happ

/-- k is the rational x truncated to whole units. -/
def Truncates (k : Nat) (x : ℚ) : Prop := (k : ℚ) ≤ x ∧ x < k + 1

theorem truncates_div (a b : Nat) : Truncates (a / b) ((a : ℚ) / b) := by
  rw [← Nat.floor_div_eq_div (K := ℚ) a b]
  exact ⟨Nat.floor_le (by positivity), Nat.lt_floor_add_one _⟩

/-- The floor of a product of two truncated factors is at most the exact product truncated. -/
theorem floor_product_le {v i : Nat} {V I : ℚ} (hV : Truncates v V) (hI : Truncates i I) :
    ((v * i / 65536 : Nat) : ℤ) ≤ ⌊V * I / 65536⌋ := by
  obtain ⟨hvV, -⟩ := hV
  obtain ⟨hiI, -⟩ := hI
  have hV0 : (0 : ℚ) ≤ V := v.cast_nonneg.trans hvV
  have hfloor : ((v * i / 65536 : Nat) : ℚ) ≤ ((v * i : Nat) : ℚ) / (65536 : Nat) := (truncates_div _ _).1
  rw [Int.le_floor]
  calc (((v * i / 65536 : Nat) : ℤ) : ℚ)
      ≤ (v : ℚ) * i / 65536 := by exact_mod_cast hfloor
    _ ≤ V * I / 65536 := by gcongr

/-- (a + 1)(c + 1) - a c = a + c + 1 units of 2^-16 for the two truncated factors, and one unit for the floor (R196). -/
theorem product_sub_floor_lt {v i : Nat} {V I : ℚ} (hV : Truncates v V) (hI : Truncates i I) :
    V * I / 65536 - (v * i / 65536 : Nat) < (V + I) / 65536 + 2 := by
  obtain ⟨hvV, hVv⟩ := hV
  obtain ⟨hiI, hIi⟩ := hI
  have hfloor : ((v * i : Nat) : ℚ) / (65536 : Nat) < (v * i / 65536 : Nat) + 1 := (truncates_div _ _).2
  push_cast at hfloor
  have hV0 : (0 : ℚ) ≤ V := v.cast_nonneg.trans hvV
  have hI0 : (0 : ℚ) ≤ I := i.cast_nonneg.trans hiI
  have hprod : V * I ≤ (v + 1) * (i + 1) := by gcongr
  linarith

/-- The Reading CONVERT returns (R174). -/
theorem reading_of_exec_convert {d : DecodedFields} {s t : State} {r : Reading} (h : exec (.convert d) s = .next t)
    (hr : t.stage = .reading r) : r = readingOf s.env.oorStatuses d s.meter := by
  obtain rfl := Host.Outcome.next.inj h
  exact (StageResult.reading.inj hr).symm

/-- Settles O31: three quantities are floors of quotients, and the fourth is the floor of a product of two of them. -/
theorem roundingErrorBounds : Obligations.RoundingErrorBounds := by
  intro d s t r x y z v i p q hi hoor hexec hstage hx hy hz hv hi' hp hq
  obtain rfl := reading_of_exec_convert hexec hstage
  have hvolt := readingOf_voltage_toNat hi s.env.oorStatuses d
  have hcurr := readingOf_current_toNat hi s.env.oorStatuses d
  have hpow := readingOf_activePower_toNat hi s.env.oorStatuses d
  rw [hv, hx] at hvolt
  rw [hi', hy] at hcurr
  rw [hp, hz, if_neg hoor] at hpow
  obtain ⟨-, hvolt⟩ := toNat_of_guarded hvolt
  obtain ⟨-, hcurr⟩ := toNat_of_guarded hcurr
  obtain ⟨-, hpow⟩ := toNat_of_guarded hpow
  have hV := truncates_div (x.toNat * s.meter.kv.toNat) d.vpar.toNat
  have hI := truncates_div (y.toNat * s.meter.ki.toNat) d.ipar.toNat
  have hP := truncates_div (z.toNat * s.meter.kv.toNat * s.meter.ki.toNat) (d.ppar.toNat * 65536)
  rw [← hvolt] at hV
  rw [← hcurr] at hI
  rw [← hpow] at hP
  push_cast at hV hI hP
  rw [apparentPower_toNat_of_some hv hi' hq]
  exact ⟨hV, hI, hP, floor_product_le hV hI, product_sub_floor_lt hV hI⟩

end Sys2Proof.Machine
end

section
/-! SUPPORT. INIT, the overflow counter and ACCEPT (43_converter.md R171, R173, R188 to R197): what each makes of group M, and the pulse
logic over a run of accepted frames. -/

namespace Sys2Proof.Machine

/-! ### INIT (R171) -/

/-- Settles O19: with nonzero constants INIT is not refused. -/
theorem initStartsLifetime : Obligations.InitStartsLifetime := by
  refine ⟨decodeCommand_append 3, fun s hkv hki => ?_⟩
  obtain ⟨hzero, -⟩ | ⟨-, -, hinit⟩ := exec_init_cases s
  · exact absurd hzero (not_or.2 ⟨hkv, hki⟩)
  · exact ⟨_, hinit, rfl, rfl, rfl, rfl, rfl, rfl⟩

/-! ### The overflow counter (R188 to R190) -/

/-- R188 and R189 in one equation. -/
theorem countOverflow_eq (m : Meter) (ovf : Bool) :
    m.countOverflow ovf =
      { m with
        ovfCnt := if ovf = true ∧ m.ovfCnt ≠ 0xFFFF then m.ovfCnt + 1 else m.ovfCnt
        ovfSat := m.ovfSat || (ovf && decide (m.ovfCnt = 0xFFFF)) } := by
  obtain ⟨rfl, e⟩ | ⟨rfl, hfull, e⟩ | ⟨rfl, hfull, e⟩ := countOverflow_cases m ovf <;> rw [e]
  · simp
  · have hfull' : m.ovfCnt = 0xFFFF := hfull
    simp [hfull']
  · have hfull' : m.ovfCnt ≠ 65535#16 := hfull
    simp [hfull']

theorem countOverflow_ovfCnt_toNat (m : Meter) (ovf : Bool) :
    (m.countOverflow ovf).ovfCnt.toNat = if ovf then min (m.ovfCnt.toNat + 1) 0xFFFF else m.ovfCnt.toNat := by
  have hlt : m.ovfCnt.toNat < 0x10000 := m.ovfCnt.isLt
  obtain ⟨rfl, e⟩ | ⟨rfl, hfull, e⟩ | ⟨rfl, hfull, e⟩ := countOverflow_cases m ovf <;> rw [e]
  · rfl
  · have hnat : m.ovfCnt.toNat = 0xFFFF := congrArg BitVec.toNat hfull
    simp [hnat]
  · have hnat : m.ovfCnt.toNat ≠ 0xFFFF := fun h => hfull (BitVec.eq_of_toNat_eq h)
    rw [if_pos rfl, BitVec.toNat_add, show (1 : BitVec Config.ovfW).toNat = 1 from rfl]
    simp only [Config.ovfW]
    omega

theorem countOverflow_ovfSat_iff (m : Meter) (ovf : Bool) :
    (m.countOverflow ovf).ovfSat = true ↔ m.ovfSat = true ∨ ovf = true ∧ m.ovfCnt.toNat = 0xFFFF := by
  rw [countOverflow_eq]
  simp [← BitVec.toNat_inj]

/-- The concatenation of R190 as a number. -/
theorem append_pulse_toNat (cnt : BitVec Config.ovfW) (pulse : BitVec 16) :
    (cnt ++ pulse).toNat = cnt.toNat * 65536 + pulse.toNat := by
  rw [BitVec.toNat_append, ← Nat.shiftLeft_add_eq_or_of_lt pulse.isLt, Nat.shiftLeft_eq]

theorem readingOf_cumulativePulses_toNat (oor : List Byte) (d : DecodedFields) (m : Meter) :
    (readingOf oor d m).cumulativePulses.toNat = (m.countOverflow d.ovf).ovfCnt.toNat * 65536 + d.pulse.toNat :=
  append_pulse_toNat _ _

/-- Settles O29. -/
theorem convertCountsOverflow : Obligations.ConvertCountsOverflow := by
  intro d s
  exact ⟨_, _, exec_convert d s, rfl, countOverflow_eq s.meter d.ovf, countOverflow_ovfCnt_toNat s.meter d.ovf,
    readingOf_cumulativePulses_toNat _ d s.meter, rfl, rfl, rfl⟩

/-! ### ACCEPT (R173, R193, R194) -/

/-- Group M after an accepted frame as the consumer reads it: the counters on, the frame held, and each quantity the new one where there
is one, else the one held before. -/
theorem acceptFrame_meter_view (s : State) (f : Frame) :
    (s.acceptFrame f).meter.view =
      { s.meter.view with
        ovfCnt := (s.meter.countOverflow (decodeFields f).ovf).ovfCnt
        ovfSat := (s.meter.countOverflow (decodeFields f).ovf).ovfSat
        frameCnt := (s.acceptFrame f).meter.frameCnt
        lastFrame := some f
        lastV := (s.readingOfFrame f).voltage.or s.meter.view.lastV
        lastI := (s.readingOfFrame f).current.or s.meter.view.lastI
        lastP := (s.readingOfFrame f).activePower.or s.meter.view.lastP
        lastS := (s.readingOfFrame f).apparentPower.or s.meter.view.lastS
        lastPf := (s.readingOfFrame f).powerFactor.or s.meter.view.lastPf
        lastCum := (s.readingOfFrame f).cumulativePulses } := by
  rw [State.acceptFrame_meter, view_hold, view_record, countOverflow_frame]
  rfl

/-- Settles O32: DECODE and CONVERT run in this state give the Reading of f, and the held readings are those of the view. -/
theorem acceptUpdatesMeter : Obligations.AcceptUpdatesMeter := by
  intro f s
  have hview := acceptFrame_meter_view s f
  exact ⟨_, _, _, decodeFields f, s.readingOfFrame f, exec_decode f s, rfl, exec_convert _ s, rfl, exec_accept f s, rfl, rfl,
    congrArg MeterView.inited hview, countOverflow_kv _ _, countOverflow_ki _ _, rfl, rfl, rfl, rfl,
    acceptFrame_frameCnt_toNat s f,
    congrArg MeterView.lastV hview, congrArg MeterView.lastI hview, congrArg MeterView.lastP hview,
    congrArg MeterView.lastS hview, congrArg MeterView.lastPf hview, acceptFrame_lastCum s f, rfl⟩

/-! ### A run of accepted frames (R197) -/

theorem runCommands_accept (fs : List Frame) (s : State) :
    ∃ os, runCommands (fs.map .accept) s = some (os, fs.foldl State.acceptFrame s) := by
  induction fs generalizing s with
  | nil => exact ⟨[], rfl⟩
  | cons f fs ih =>
    obtain ⟨os, hrun⟩ := ih (s.acceptFrame f)
    exact ⟨(s.acceptFrame f).outs ++ os, by
      simp only [List.map_cons, runCommands, exec_accept, hrun, Option.map_some, List.foldl_cons]⟩

/-- The overflow counter after k overflow events in this lifetime (R197 b). -/
def Meter.CountsOverflows (m : Meter) (k : Nat) : Prop :=
  m.ovfCnt.toNat = min k 65535 ∧ (m.ovfSat = true ↔ 65535 < k)

/-- Bit D of a frame's UpdateFlags byte, by its mask (R84). -/
theorem decodeFields_ovf (f : Frame) : (decodeFields f).ovf = decide (f[20] &&& 0x80 ≠ 0) :=
  (overflowEvent_eq f[20]).trans (decide_not).symm

theorem decodeFields_pulse_toNat (f : Frame) : (decodeFields f).pulse.toNat = f[21].toNat * 256 + f[22].toNat :=
  be16_toNat f 21 _

theorem acceptFrame_ovfCnt (s : State) (f : Frame) :
    (s.acceptFrame f).meter.ovfCnt = (s.meter.countOverflow (decodeFields f).ovf).ovfCnt := rfl

theorem Meter.CountsOverflows.countOverflow {m : Meter} {k : Nat} (h : m.CountsOverflows k) (ovf : Bool) :
    (m.countOverflow ovf).CountsOverflows (k + if ovf then 1 else 0) := by
  obtain ⟨hcnt, hsat⟩ := h
  rw [Meter.CountsOverflows, countOverflow_ovfCnt_toNat, countOverflow_ovfSat_iff, hcnt, hsat]
  cases ovf with
  | false => simp
  | true =>
    simp only [if_true, true_and]
    omega

/-- One accepted frame is one event when it has the overflow bit, else none. -/
theorem Meter.CountsOverflows.acceptFrame {s : State} {k : Nat} (h : s.meter.CountsOverflows k) (f : Frame) :
    (s.acceptFrame f).meter.CountsOverflows (k + if (decodeFields f).ovf then 1 else 0) :=
  h.countOverflow _

theorem Meter.CountsOverflows.foldl_acceptFrame {s : State} {k : Nat} (h : s.meter.CountsOverflows k) (fs : List Frame) :
    (fs.foldl State.acceptFrame s).meter.CountsOverflows (k + fs.countP fun g => (decodeFields g).ovf) := by
  induction fs generalizing s k with
  | nil => exact h
  | cons f fs ih =>
    rw [List.foldl_cons, List.countP_cons, Nat.add_comm (fs.countP _), ← Nat.add_assoc]
    exact ih (h.acceptFrame f)

theorem exec_init_countsOverflows {s₀ s : State} (h : exec .init s₀ = .next s) : s.meter.CountsOverflows 0 := by
  obtain ⟨-, e⟩ | ⟨-, -, e⟩ := exec_init_cases s₀ <;> rw [e] at h
  · cases h
  · obtain rfl := Host.Outcome.next.inj h
    exact ⟨rfl, by simp⟩

/-- LAST_CUM is the counter with this frame's event in it, then its PulseCount (R190, R194). -/
theorem acceptFrame_lastCum_toNat (s : State) (f : Frame) :
    (s.acceptFrame f).meter.lastCum.toNat =
      (s.acceptFrame f).meter.ovfCnt.toNat * 65536 + (f[21].toNat * 256 + f[22].toNat) := by
  rw [acceptFrame_lastCum, acceptFrame_ovfCnt, ← decodeFields_pulse_toNat]
  exact readingOf_cumulativePulses_toNat _ _ _

/-- A frame without the overflow bit leaves the high part of cumulativePulses alone (R188). -/
theorem acceptFrame_ovfCnt_of_no_event (s : State) {f : Frame} (h : f[20] &&& 0x80 = 0) :
    (s.acceptFrame f).meter.ovfCnt = s.meter.ovfCnt := by
  have hovf : (decodeFields f).ovf = false := by rw [decodeFields_ovf, h]; rfl
  rw [acceptFrame_ovfCnt, hovf]
  rfl

/-- Settles O34: the counter follows the number of events through the run, and LAST_CUM is read off its last frame. -/
theorem pulseLaw : Obligations.PulseLaw := by
  refine ⟨fun s₀ s fs hinit => ?_, fun s t u f g hf hg hbit hpulse => ?_⟩
  · obtain ⟨os, hrun⟩ := runCommands_accept fs s
    obtain ⟨hcnt, hsat⟩ := (exec_init_countsOverflows hinit).foldl_acceptFrame fs
    simp only [Nat.zero_add, decodeFields_ovf] at hcnt hsat
    refine ⟨os, _, hrun, hcnt, hsat, fun gs f hfs hle => ?_⟩
    rw [Nat.min_eq_left hle] at hcnt
    rw [← hcnt, hfs, List.foldl_concat]
    exact acceptFrame_lastCum_toNat _ f
  · obtain rfl := Host.Outcome.next.inj hf
    obtain rfl := Host.Outcome.next.inj hg
    rw [acceptFrame_lastCum_toNat, acceptFrame_lastCum_toNat, acceptFrame_ovfCnt_of_no_event _ hbit]
    exact Nat.add_lt_add_left hpulse _

end Sys2Proof.Machine
end

section
/-! SUPPORT. A quantity without a value (60_exceptions.md R215, R221): for each of the five, exactly what leaves it
`none`, and the INCOMPLETE that follows. -/

namespace Sys2Proof.Machine

/-! ### The constants before INIT (R29, R221) -/

theorem kvValue_of_uninited {m : Meter} (hi : m.inited = false) : m.kvValue = none := by
  rw [Meter.kvValue, hi]
  rfl

theorem kiValue_of_uninited {m : Meter} (hi : m.inited = false) : m.kiValue = none := by
  rw [Meter.kiValue, hi]
  rfl

/-! ### What leaves a quantity without a value (R176 to R186) -/

/-- The guards of R176 and R178, and the constant that INIT has yet to give (R221). -/
theorem scaled_eq_none_iff {w : Nat} (reg : Option (BitVec 24)) (par : BitVec 24) (k : Option (BitVec Config.kW)) :
    scaled w reg par k = none ↔ reg = none ∨ par = 0 ∨ k = none := by
  cases reg with
  | none => simp [scaled]
  | some x => cases k <;> simp [scaled]

/-- POWER_OOR comes before the other guards of R180 and forces a value (R181). -/
theorem activePowerOf_eq_none_iff (oor : List Byte) (d : DecodedFields) (kv ki : Option (BitVec Config.kW)) :
    activePowerOf oor d kv ki = none ↔ d.status ∉ oor ∧ (d.preg = none ∨ d.ppar = 0 ∨ kv = none ∨ ki = none) := by
  by_cases hoor : d.status ∈ oor
  · simp [activePowerOf, (powerOor_iff _ _).2 hoor, hoor]
  · simp only [activePowerOf, if_neg (mt (powerOor_iff _ _).1 hoor), hoor, not_false_eq_true, true_and]
    cases d.preg with
    | none => simp
    | some x =>
      cases kv with
      | none => simp
      | some kv => cases ki <;> simp

theorem apparentPowerOf_eq_none_iff (v : Option (BitVec Config.vW)) (i : Option (BitVec Config.iW)) :
    apparentPowerOf v i = none ↔ v = none ∨ i = none := by
  rw [← Option.isNone_iff_eq_none, ← Option.not_isSome, isSome_apparentPowerOf]
  simp

theorem powerFactorOf_eq_none_iff (p : Option (BitVec Config.pW)) (q : Option (BitVec Config.sW)) :
    powerFactorOf p q = none ↔ p = none ∨ q = none := by
  rw [← Option.isNone_iff_eq_none, ← Option.not_isSome, isSome_powerFactorOf]
  simp

/-! ### CONVERT before INIT (R221) -/

/-- Settles O30: with no constant, voltage and current have no value, and what is computed from them has none. -/
theorem convertBeforeInitHasNoValue : Obligations.ConvertBeforeInitHasNoValue := by
  intro d s hi
  have hkv : s.meter.kvValue = none := kvValue_of_uninited hi
  have hki : s.meter.kiValue = none := kiValue_of_uninited hi
  have hvolt : (readingOf s.env.oorStatuses d s.meter).voltage = none :=
    (scaled_eq_none_iff _ _ _).2 (.inr (.inr hkv))
  have hcurr : (readingOf s.env.oorStatuses d s.meter).current = none :=
    (scaled_eq_none_iff _ _ _).2 (.inr (.inr hki))
  have happ : (readingOf s.env.oorStatuses d s.meter).apparentPower = none :=
    (apparentPowerOf_eq_none_iff _ _).2 (.inl hvolt)
  have hfactor : (readingOf s.env.oorStatuses d s.meter).powerFactor = none :=
    (powerFactorOf_eq_none_iff _ _).2 (.inr happ)
  exact ⟨_, _, exec_convert d s, rfl, hvolt, hcurr, happ, hfactor,
    fun hoor => (activePowerOf_eq_none_iff _ _ _ _).2 ⟨hoor, .inr (.inr (.inl hkv))⟩⟩

/-! ### RegisterUnready in an accepted frame (R215) -/

theorem whenReady_eq_none_iff (ready : Bool) (raw : BitVec 24) : whenReady ready raw = none ↔ ready = false := by
  cases ready <;> simp [whenReady]

/-- A big-endian field is zero when its three bytes are (R91). -/
theorem be24_eq_zero_iff (f : Frame) (o : Nat) (h : o + 2 < 24) :
    be24 f o h = 0 ↔ f[o] = 0 ∧ f[o + 1] = 0 ∧ f[o + 2] = 0 := by
  simp only [← BitVec.toNat_inj, be24_toNat, BitVec.ofNat_eq_ofNat, BitVec.toNat_ofNat, Nat.zero_mod]
  omega

theorem readingOfFrame_voltage_eq_none_iff {s : State} (hi : s.meter.inited = true) (f : Frame) :
    (s.readingOfFrame f).voltage = none ↔ f[20] &&& 0x40 = 0 ∨ f[2] = 0 ∧ f[3] = 0 ∧ f[4] = 0 := by
  have hready : (decodeFields f).vreg = none ↔ f[20] &&& 0x40 = 0 := by
    simp [decodeFields, whenReady_eq_none_iff, voltageReady_eq, byteAt_eq]
  have hpar : (decodeFields f).vpar = 0 ↔ f[2] = 0 ∧ f[3] = 0 ∧ f[4] = 0 := be24_eq_zero_iff f 2 _
  calc (s.readingOfFrame f).voltage = none
      ↔ (decodeFields f).vreg = none ∨ (decodeFields f).vpar = 0 ∨ s.meter.kvValue = none := scaled_eq_none_iff _ _ _
    _ ↔ _ := by simp only [hready, hpar, kvValue_of_inited hi, reduceCtorEq, or_false]

theorem readingOfFrame_current_eq_none_iff {s : State} (hi : s.meter.inited = true) (f : Frame) :
    (s.readingOfFrame f).current = none ↔ f[20] &&& 0x20 = 0 ∨ f[8] = 0 ∧ f[9] = 0 ∧ f[10] = 0 := by
  have hready : (decodeFields f).ireg = none ↔ f[20] &&& 0x20 = 0 := by
    simp [decodeFields, whenReady_eq_none_iff, currentReady_eq, byteAt_eq]
  have hpar : (decodeFields f).ipar = 0 ↔ f[8] = 0 ∧ f[9] = 0 ∧ f[10] = 0 := be24_eq_zero_iff f 8 _
  calc (s.readingOfFrame f).current = none
      ↔ (decodeFields f).ireg = none ∨ (decodeFields f).ipar = 0 ∨ s.meter.kiValue = none := scaled_eq_none_iff _ _ _
    _ ↔ _ := by simp only [hready, hpar, kiValue_of_inited hi, reduceCtorEq, or_false]

theorem readingOfFrame_activePower_eq_none_iff {s : State} (hi : s.meter.inited = true) (f : Frame) :
    (s.readingOfFrame f).activePower = none ↔
      f[0] ∉ s.env.oorStatuses ∧ (f[20] &&& 0x10 = 0 ∨ f[14] = 0 ∧ f[15] = 0 ∧ f[16] = 0) := by
  have hready : (decodeFields f).preg = none ↔ f[20] &&& 0x10 = 0 := by
    simp [decodeFields, whenReady_eq_none_iff, powerReady_eq, byteAt_eq]
  have hpar : (decodeFields f).ppar = 0 ↔ f[14] = 0 ∧ f[15] = 0 ∧ f[16] = 0 := be24_eq_zero_iff f 14 _
  have hstatus : (decodeFields f).status = f[0] := byteAt_eq f 0
  calc (s.readingOfFrame f).activePower = none
      ↔ (decodeFields f).status ∉ s.env.oorStatuses ∧ ((decodeFields f).preg = none ∨ (decodeFields f).ppar = 0 ∨
          s.meter.kvValue = none ∨ s.meter.kiValue = none) := activePowerOf_eq_none_iff _ _ _ _
    _ ↔ _ := by
      simp only [hstatus, hready, hpar, kvValue_of_inited hi, kiValue_of_inited hi, reduceCtorEq, or_false]

/-- INCOMPLETE is reported when at least one of the five is missing (R191). -/
theorem code_eq_incomplete_iff (r : Reading) :
    r.code = .incomplete ↔
      r.voltage = none ∨ r.current = none ∨ r.activePower = none ∨ r.apparentPower = none ∨ r.powerFactor = none := by
  have hcode : r.code = .incomplete ↔ r.complete = false := by
    unfold Reading.code
    cases r.complete <;> simp
  rw [hcode]
  simp only [Reading.complete, Bool.and_eq_false_iff, Option.isSome_eq_false_iff, Option.isNone_iff_eq_none, or_assoc]

/-- Settles O33, quantity by quantity, and then the code. -/
theorem unreadyCauses : Obligations.UnreadyCauses := by
  intro f s hi
  exact ⟨_, _, s.readingOfFrame f, exec_accept f s, rfl,
    readingOfFrame_voltage_eq_none_iff hi f, readingOfFrame_current_eq_none_iff hi f,
    readingOfFrame_activePower_eq_none_iff hi f, apparentPowerOf_eq_none_iff _ _, powerFactorOf_eq_none_iff _ _,
    code_eq_incomplete_iff _, (isAcceptance_iff _).1 (code_isAcceptance _)⟩

end Sys2Proof.Machine
end

section
/-! SUPPORT. No stuck state (60_exceptions.md R221, 20_memory.md R73): under the invariant of group S the one fault of the
model, a byte for an offset beyond the frame buffer, cannot happen, and INIT with a zero constant is the only thing refused. -/

namespace Sys2Proof.Machine

/-- CNT is at most 23 while collecting (R26), so RXBYTE never meets the fault arm. -/
theorem receive_completes {s : State} (hs : s.sync.Inv s.meter.inited) (b : Byte) : ∃ t, s.receive b = .next t := by
  rcases receive_cases s b with ⟨-, e⟩ | ⟨-, -, -, e⟩ | ⟨-, -, -, e⟩ | ⟨-, -, _, e⟩ | ⟨-, -, -, e⟩ | ⟨-, hm, hc, -⟩
  · exact ⟨_, e⟩
  · exact ⟨_, e⟩
  · exact ⟨_, e⟩
  · exact ⟨_, e⟩
  · exact ⟨_, e⟩
  · obtain ⟨-, hle, -⟩ := hs.collect hm
    exact absurd hc (Nat.not_lt.2 hle)

/-- RXBYTE keeps the invariant, so each byte of a list meets it (R100). -/
theorem stream_completes (bs : List Byte) {s : State} (hs : s.sync.Inv s.meter.inited) : ∃ t, s.stream bs = .next t := by
  induction bs generalizing s with
  | nil => exact ⟨_, stream_nil s⟩
  | cons b bs ih =>
    obtain ⟨s₁, h₁⟩ := receive_completes hs b
    obtain ⟨t, ht⟩ := ih (receive_keeps_syncInv hs h₁)
    exact ⟨_, stream_cons_next bs h₁ ht⟩

theorem exec_completes (i : Instr) {s : State} (hs : s.sync.Inv s.meter.inited)
    (hinit : i = .init → s.env.cfgKv ≠ 0 ∧ s.env.cfgKi ≠ 0) : ∃ t, exec i s = .next t := by
  cases i with
  | idle => exact ⟨_, exec_idle s⟩
  | rxbyte b => exact receive_completes hs b
  | flush => exact ⟨_, exec_flush s⟩
  | init =>
    obtain ⟨hkv, hki⟩ := hinit rfl
    obtain ⟨hzero, -⟩ | ⟨-, -, e⟩ := exec_init_cases s
    · exact absurd hzero (not_or.2 ⟨hkv, hki⟩)
    · exact ⟨_, e⟩
  | validate f => exact ⟨_, exec_validate f s⟩
  | reanchor f => exact ⟨_, exec_reanchor f s⟩
  | accept f => exact ⟨_, exec_accept f s⟩
  | decode f => exact ⟨_, exec_decode f s⟩
  | convert d => exact ⟨_, exec_convert d s⟩
  | frame f => exact stream_completes f.toList hs

/-- A step completes, or it is an INIT presented with a zero constant (R73, R244). -/
theorem step_completes_or_refuses {s : State} (hs : s.sync.Inv s.meter.inited) :
    (∃ t, step s = .next t) ∨
      (s.fetch.cfgKv = 0 ∨ s.fetch.cfgKi = 0) ∧ step s = .refused .zeroCalibration := by
  obtain ⟨-, e⟩ | ⟨-, e⟩ := step_cases s <;> rw [e]
  · exact .inl ⟨_, rfl⟩
  · by_cases hd : decodeWord s.fetch.word = .init
    · rw [hd]
      obtain ⟨hzero, e⟩ | ⟨-, -, e⟩ := exec_init_cases s.presented
      · exact .inr ⟨hzero, e⟩
      · exact .inl ⟨_, e⟩
    · exact .inl (exec_completes _ (s := s.presented) hs fun h => absurd h hd)

theorem stepSafe_of_syncInv {s : State} (hs : s.sync.Inv s.meter.inited) : StepSafe s := by
  intro r hfault
  obtain ⟨t, h⟩ | ⟨-, h⟩ := step_completes_or_refuses hs <;> rw [h] at hfault <;> cases hfault

/-- Settles O38: instruction by instruction, and then for whatever the port presents. -/
theorem everyInstructionCompletes : Obligations.EveryInstructionCompletes :=
  ⟨fun _ i hs hinit => exec_completes i hs hinit, fun _ hs => ⟨stepSafe_of_syncInv hs, step_completes_or_refuses hs⟩⟩

end Sys2Proof.Machine
end

section
/-! SUPPORT. Hardware reset, the commands before the first INIT, and INIT without calibration (70_reset_and_hazards.md R240, R241,
R244). -/

namespace Sys2Proof.Machine

/-! ### Before the first INIT (R241) -/

theorem exec_ignored_of_uninited {s : State} {c : Instr} (hi : s.meter.inited = false)
    (hc : c = .idle ∨ c = .flush ∨ ∃ b, c = .rxbyte b) : exec c s = .next (s.endCommand .none) := by
  obtain rfl | hc := hc
  · exact exec_idle s
  · exact exec_flush_or_rxbyte_of_uninited hi hc

/-- A command that completes and a run after it are one run, with its outputs first (R256). -/
theorem runCommands_cons_next {c : Instr} {cs : List Instr} {s t u : State} {os : List Output} (h : exec c s = .next t)
    (hrun : runCommands cs t = some (os, u)) : runCommands (c :: cs) s = some (t.outs ++ os, u) := by
  simp only [runCommands, h, hrun, Option.map_some]

/-- INITED = 0 alone is enough: each command ends in NONE, and INITED is still 0 for the next one. -/
theorem runCommands_ignored_of_uninited {cs : List Instr} {s : State} (hi : s.meter.inited = false)
    (hcs : ∀ c ∈ cs, c = .idle ∨ c = .flush ∨ ∃ b, c = .rxbyte b) :
    ∃ t, runCommands cs s = some (List.replicate cs.length ⟨.none, none⟩, t) ∧
      t.sync = s.sync ∧ t.meter = s.meter ∧ t.env = s.env := by
  induction cs generalizing s with
  | nil => exact ⟨s, rfl, rfl, rfl, rfl⟩
  | cons c cs ih =>
    obtain ⟨hc, hrest⟩ := List.forall_mem_cons.1 hcs
    obtain ⟨t, hrun, hsync, hmeter, henv⟩ := ih (s := s.endCommand .none) hi hrest
    exact ⟨t, runCommands_cons_next (exec_ignored_of_uninited hi hc) hrun, hsync, hmeter, henv⟩

/-- Settles O8. -/
theorem ignoredBeforeInit : Obligations.IgnoredBeforeInit := by
  intro cs s hi _ _ _ hcs
  obtain ⟨t, hrun, hsync, hmeter, henv⟩ := runCommands_ignored_of_uninited hi hcs
  exact ⟨_, t, hrun, hsync, hmeter, henv, rfl⟩

/-! ### INIT without calibration (R244) -/

/-- Settles O20. -/
theorem initRefusesZeroConstant : Obligations.InitRefusesZeroConstant := by
  intro s hzero
  obtain ⟨-, hrefused⟩ | ⟨hkv, hki, -⟩ := exec_init_cases s
  · exact hrefused
  · exact absurd hzero (not_or.2 ⟨hkv, hki⟩)

/-! ### Hardware reset (R240) -/

/-- What R240 leaves of group S: no window, and no byte held. -/
theorem hardwareReset_sync_view (s : State) :
    s.hardwareReset.sync.view = { mode := .hunt, cnt := 0, window := none, held := [] } := rfl

/-- What R240 leaves of group M: neither the constants nor any held register has a value. -/
theorem hardwareReset_meter_view (s : State) :
    s.hardwareReset.meter.view =
      { inited := false, kv := none, ki := none, ovfCnt := 0, ovfSat := false, frameCnt := 0
        lastFrame := none, lastV := none, lastI := none, lastP := none, lastS := none
        lastPf := none, lastCum := 0 } := rfl

/-- Settles O21. -/
theorem hardwareResetLeaves : Obligations.HardwareResetLeaves := by
  refine ⟨fun s x rest hin hhigh => ?_, ?_, ?_⟩
  · exact ⟨_, step_of_reset_high hin hhigh, hardwareReset_sync_view _, hardwareReset_meter_view _, State.hardwareReset_env _⟩
  · exact (hardwareReset_sync_view State.reset).symm
  · exact (hardwareReset_meter_view State.reset).symm

end Sys2Proof.Machine
end
